-- ==== Sys2Proof/Word.lean ====
section
/-! DEFINITION. The word types of `sgl_frame_rx` and nothing else: a byte of the stream (R12, R18),
the stimulus word of one clock edge (R92), the two decode keys (R93) and the 2-bit registers
(`midx` of R25, the slot indices of R28). -/

namespace Sys2Proof

/-- A byte is 8 bits, unsigned (R12). -/
abbrev Byte := BitVec 8

/-- The stimulus word `SW[11:0]` sampled on one rising edge of `clk` (R92). -/
abbrev StimWord := BitVec 12

/-- The frame-synchronizer decode key `FSK[4:0] = {rst, in_err, in_valid, fs_state[1:0]}` (R93). -/
abbrev FsKey := BitVec 5

/-- The latest-value-cell decode key `LVK[2:0] = {rst, pub, rd_req}` (R93). -/
abbrev LvKey := BitVec 3

/-- A slot index register `w_idx`, `m_idx` or `r_idx`, two bits wide (R28). -/
abbrev SlotIdx := BitVec 2

/-- The partial-match count `midx`, two bits wide (R25). -/
abbrev MarkerIdx := BitVec 2

end Sys2Proof
end

