-- ==== Sys2Proof/Syntax.lean ====
section
/-! DEFINITION. The operations of the block, one constructor per row of spec/opcode_table.json,
and the closed name sets of its registers: the state codes of R24 and R96, the event codes of R97.
An operation is what the inputs sampled on one clock edge mean (R2); one edge runs one FS
operation and one LV operation together (R120). -/

namespace Sys2Proof

/-- `fs_state[1:0]` (R24). `illegal` is the code `0b11`, unreachable from reset (R96). -/
inductive FsState where
  | seek
  | payload
  | checksum
  | illegal
  deriving DecidableEq, Repr

/-- `ev_kind[1:0]` (R97). `reserved` is the code `0b11`, never emitted (R99). -/
inductive EvKind where
  | frameOk
  | checksumMismatch
  | transportError
  | reserved
  deriving DecidableEq, Repr

/-- The 14 operations of the opcode table (R94, R95). The byte operand `b` is `in_data` (R98); no
other operation has an operand field. Every value of `b` is legal, so no term of this type is
ill formed. -/
inductive Instr where
  /-- FS.RESET (R230) -/
  | fsReset
  /-- FS.TERR (R128) -/
  | fsTerr
  /-- FS.ILL (R129) -/
  | fsIll
  /-- FS.IDLE.S (R121) -/
  | fsIdleS
  /-- FS.IDLE.P (R122) -/
  | fsIdleP
  /-- FS.IDLE.C (R123) -/
  | fsIdleC
  /-- FS.SEEK_BYTE (R124) -/
  | fsSeekByte (b : Byte)
  /-- FS.PAYLOAD_BYTE (R126) -/
  | fsPayloadByte (b : Byte)
  /-- FS.CHECKSUM_BYTE (R127) -/
  | fsChecksumByte (b : Byte)
  /-- LV.RESET (R230) -/
  | lvReset
  /-- LV.IDLE (R164) -/
  | lvIdle
  /-- LV.TRYREAD (R165) -/
  | lvTryread
  /-- LV.PUBLISH (R166) -/
  | lvPublish
  /-- LV.PUBLISH_TRYREAD (R167) -/
  | lvPublishTryread
  deriving DecidableEq, Repr

/-- The row's name in spec/opcode_table.json. -/
def Instr.mnemonic : Instr → String
  | .fsReset => "FS.RESET"
  | .fsTerr => "FS.TERR"
  | .fsIll => "FS.ILL"
  | .fsIdleS => "FS.IDLE.S"
  | .fsIdleP => "FS.IDLE.P"
  | .fsIdleC => "FS.IDLE.C"
  | .fsSeekByte _ => "FS.SEEK_BYTE"
  | .fsPayloadByte _ => "FS.PAYLOAD_BYTE"
  | .fsChecksumByte _ => "FS.CHECKSUM_BYTE"
  | .lvReset => "LV.RESET"
  | .lvIdle => "LV.IDLE"
  | .lvTryread => "LV.TRYREAD"
  | .lvPublish => "LV.PUBLISH"
  | .lvPublishTryread => "LV.PUBLISH_TRYREAD"

/-- Whether the row belongs to the frame synchronizer (format FSK) or to the cell (format LVK). -/
def Instr.isFs : Instr → Bool
  | .fsReset => true
  | .fsTerr => true
  | .fsIll => true
  | .fsIdleS => true
  | .fsIdleP => true
  | .fsIdleC => true
  | .fsSeekByte _ => true
  | .fsPayloadByte _ => true
  | .fsChecksumByte _ => true
  | .lvReset => false
  | .lvIdle => false
  | .lvTryread => false
  | .lvPublish => false
  | .lvPublishTryread => false

/-- The two operations of one clock edge (R120). -/
structure EdgeOps where
  fs : Instr
  lv : Instr
  deriving DecidableEq, Repr

/-! The stimulus assembler's source text (R101, R102). -/

/-- One line without its `, R` suffix (R101). -/
inductive Line where
  /-- `IDLE` -/
  | idle
  /-- `B 0xHH` -/
  | byte (b : Byte)
  /-- `E` -/
  | err
  /-- `EB 0xHH` -/
  | errByte (b : Byte)
  /-- `RST` -/
  | rst
  /-- `R` -/
  | read
  deriving DecidableEq, Repr

/-- A line or a pseudo-instruction (R102). -/
inductive Source where
  /-- a line of R101 -/
  | line (l : Line)
  /-- `IDLE n` -/
  | idles (n : Nat)
  /-- `BYTES h0, ..., hk` -/
  | bytes (hs : List Byte)
  /-- `MAGIC` -/
  | magic
  /-- `PAY p0, ..., p(PLEN-1)` -/
  | pay (p : List Byte)
  /-- `CSUM` -/
  | csum
  /-- `BADCSUM d` -/
  | badCsum (d : Byte)
  /-- `MSG p0, ..., p(PLEN-1)` -/
  | msg (p : List Byte)
  /-- `BADMSG d; p0, ..., p(PLEN-1)` -/
  | badMsg (d : Byte) (p : List Byte)
  deriving DecidableEq, Repr

/-- One source row: a line or pseudo-instruction, and whether it carries the suffix `, R`. -/
structure SourceRow where
  what : Source
  andRead : Bool
  deriving DecidableEq, Repr

end Sys2Proof
end

