-- ==== Sys2Proof/Config.lean ====
section
/-! DEFINITION. The build-time parameters of the block (R6) and the values the spec leaves free.
No input changes a parameter (R6, R38); a state carries its parameters as plain data that no
operation writes (log entry 2), so that a statement about every state is a statement about every
build. -/

namespace Sys2Proof

/-- The four marker bytes in wire order, `MAGIC[0..3]` (R6); any four values are allowed. -/
structure Magic where
  m0 : Byte
  m1 : Byte
  m2 : Byte
  m3 : Byte
  deriving DecidableEq, Repr

/-- The marker as the byte sequence it is on the wire (R62, R90). -/
def Magic.bytes (m : Magic) : List Byte := [m.m0, m.m1, m.m2, m.m3]

/-- The default marker `0x53 0x47 0x4C 0x50` (R8). -/
def Magic.sglp : Magic := { m0 := 0x53, m1 := 0x47, m2 := 0x4C, m3 := 0x50 }

/-- The build-time parameters (R6). `NUM_READERS` is 1 and has no field (R173). -/
structure Config where
  /-- `N_LEDS`, the strip length N: OPEN in the spec, an integer of at least 1. -/
  nLeds : Nat
  /-- `MAGIC[0..3]`. -/
  magic : Magic
  /-- `FALLBACK[0..PLEN-1]`, a whole frame (R7). -/
  fallback : List Byte
  /-- `GEN_W`, the width of every generation number in bits; 32 in this hardware (log entry 3). -/
  genW : Nat
  deriving DecidableEq, Repr

/-- `PLEN = 3 × N_LEDS`, the payload length in bytes (R6). -/
def Config.plen (c : Config) : Nat := 3 * c.nLeds

/-- `PCNT_W = max(1, ceil(log2(PLEN)))`, the width of the payload counter in bits (R6). -/
def Config.pcntW (c : Config) : Nat := max 1 (Nat.clog 2 c.plen)

/-- The build with strip length `n` and every other parameter at its default (R6 to R8). -/
def Config.ofLeds (n : Nat) : Config :=
  { nLeds := n, magic := Magic.sglp, fallback := List.replicate (3 * n) 0xFF, genW := 32 }

/-- The configuration of the spec's own vectors: N = 2 and the defaults (spec/95_test_vectors.md).
DESIGN CHOICE (log entry 2): N is OPEN; only `State.reset` uses this build. -/
def Config.standard : Config := Config.ofLeds 2

/-- FREE VALUE (log entry 6): the byte that storage address `a` holds when nothing has written it
since power-on; "any byte value" (R45), never shown by a port of a reachable state (R63). -/
opaque Config.freeByte : Nat → Byte

/-- FREE VALUE (log entry 1): the stimulus word that the environment and the reader client choose
for the clock edge with number `n`, where no word has been placed in `State.inputs` (R10). -/
opaque Config.freeStimulus : Nat → StimWord

end Sys2Proof
end

