-- ==== Sys2Proof/WellFormed.lean ====
section
/-! DEFINITION. The checks on terms. An `Instr` needs none: its one operand is a byte by its type,
and every row is legal in every state and cycle (R221). What can be ill formed is a configuration
(R6), a pair of operations claimed for one edge (R93, R95), and a source row of the assembler
(R102). -/

namespace Sys2Proof

/-- A build the spec allows: N is at least 1, N = 0 being refused at build time (R6, D21), and
`FALLBACK` is a frame of PLEN bytes. -/
def Config.wellFormed (c : Config) : Bool :=
  decide (1 ≤ c.nLeds) && decide (c.fallback.length = c.plen)

/-- The operation carries the publish strobe in its key (rows LV.PUBLISH and LV.PUBLISH_TRYREAD). -/
def Instr.hasPublish : Instr → Bool
  | .lvPublish => true
  | .lvPublishTryread => true
  | .fsReset => false
  | .fsTerr => false
  | .fsIll => false
  | .fsIdleS => false
  | .fsIdleP => false
  | .fsIdleC => false
  | .fsSeekByte _ => false
  | .fsPayloadByte _ => false
  | .fsChecksumByte _ => false
  | .lvReset => false
  | .lvIdle => false
  | .lvTryread => false

/-- The operation is the checksum byte's, the only source of the publish strobe (R93). -/
def Instr.isChecksumByte : Instr → Bool
  | .fsChecksumByte _ => true
  | .fsReset => false
  | .fsTerr => false
  | .fsIll => false
  | .fsIdleS => false
  | .fsIdleP => false
  | .fsIdleC => false
  | .fsSeekByte _ => false
  | .fsPayloadByte _ => false
  | .lvReset => false
  | .lvIdle => false
  | .lvTryread => false
  | .lvPublish => false
  | .lvPublishTryread => false

/-- A pair that one edge can select: an FS row with an LV row, both resets or neither (both are
selected by `SW[11]`, R230), and a publish only beside the checksum byte's operation (R93). -/
def EdgeOps.wellFormed (o : EdgeOps) : Bool :=
  o.fs.isFs && !o.lv.isFs && (decide (o.fs = .fsReset) == decide (o.lv = .lvReset)) &&
    (!o.lv.hasPublish || o.fs.isChecksumByte)

/-- A source row the assembler takes: `PAY`, `MSG` and `BADMSG` have exactly PLEN operands, `d` of
`BADCSUM` and `BADMSG` is in 1..255 (R102), and `, R` stands after what is one line (R101). -/
def SourceRow.wellFormed (c : Config) (r : SourceRow) : Bool :=
  match r.what with
  | .line _ => true
  | .idles n => !r.andRead || n == 1
  | .bytes hs => !r.andRead || hs.length == 1
  | .magic => !r.andRead
  | .pay p => !r.andRead && p.length == c.plen
  | .csum => true
  | .badCsum d => d != 0
  | .msg p => !r.andRead && p.length == c.plen
  | .badMsg d p => !r.andRead && d != 0 && p.length == c.plen

end Sys2Proof
end

