-- ==== Sys2Proof/Decode.lean ====
section
/-! DEFINITION. The stimulus word and its fields (R92), the two decode keys (R93), the two decoders
(R94, R95), the byte image of an operation with a decoder total on any bytes, and after it the
encoder. The operation map is also given as rows (mask and match), as spec/opcode_table.json has
it. -/

namespace Sys2Proof

/-! The fields of `SW[11:0]` (R92). -/

/-- `SW[11]`, synchronous reset. -/
def swRst (w : StimWord) : Bool := w.getLsbD 11

/-- `SW[10]`, transport error strobe. -/
def swErr (w : StimWord) : Bool := w.getLsbD 10

/-- `SW[9]`, byte present. -/
def swValid (w : StimWord) : Bool := w.getLsbD 9

/-- `SW[8]`, `try_read()` call. -/
def swRd (w : StimWord) : Bool := w.getLsbD 8

/-- `SW[7:0]`, the byte. -/
def swData (w : StimWord) : Byte := w.extractLsb' 0 8

/-- The stimulus word with these fields (R92). -/
def mkStim (rst err valid rd : Bool) (data : Byte) : StimWord :=
  (if rst then 0x800 else 0) ||| (if err then 0x400 else 0) ||| (if valid then 0x200 else 0) |||
    (if rd then 0x100 else 0) ||| data.setWidth 12

/-- The two bits of `fs_state` (R24, R96). -/
def FsState.code : FsState → BitVec 2
  | .seek => 0b00
  | .payload => 0b01
  | .checksum => 0b10
  | .illegal => 0b11

/-- The state a code stands for (R96). -/
def FsState.ofCode (c : BitVec 2) : FsState :=
  if c = 0b00 then .seek else if c = 0b01 then .payload else if c = 0b10 then .checksum else .illegal

/-- The two bits of `ev_kind` (R97). -/
def EvKind.code : EvKind → BitVec 2
  | .frameOk => 0b00
  | .checksumMismatch => 0b01
  | .transportError => 0b10
  | .reserved => 0b11

/-! The decode keys (R93). -/

/-- `FSK[4:0] = {SW[11], SW[10], SW[9], fs_state[1:0]}`. -/
def fsKey (w : StimWord) (st : FsState) : FsKey :=
  BitVec.ofBool (swRst w) ++ BitVec.ofBool (swErr w) ++ BitVec.ofBool (swValid w) ++ st.code

/-- `LVK[2:0] = {SW[11], pub, SW[8]}`. -/
def lvKey (w : StimWord) (pub : Bool) : LvKey :=
  BitVec.ofBool (swRst w) ++ BitVec.ofBool pub ++ BitVec.ofBool (swRd w)

/-- The FS operation map (R94). The rows partition the 32 keys: what is left for the last line is
`0b00110` alone. Don't-care bits of a row are dropped (log entry 10). -/
def decodeFs (k : FsKey) (b : Byte) : Instr :=
  if k &&& 0b10000 = 0b10000 then .fsReset
  else if k &&& 0b11000 = 0b01000 then .fsTerr
  else if k &&& 0b11011 = 0b00011 then .fsIll
  else if k = 0b00000 then .fsIdleS
  else if k = 0b00001 then .fsIdleP
  else if k = 0b00010 then .fsIdleC
  else if k = 0b00100 then .fsSeekByte b
  else if k = 0b00101 then .fsPayloadByte b
  else .fsChecksumByte b

/-- The LV operation map (R95). The rows partition the 8 keys: what is left for the last line is
`0b011` alone. -/
def decodeLv (k : LvKey) : Instr :=
  if k &&& 0b100 = 0b100 then .lvReset
  else if k = 0b000 then .lvIdle
  else if k = 0b001 then .lvTryread
  else if k = 0b010 then .lvPublish
  else .lvPublishTryread

/-- The FS operation that the stimulus word `w` selects in FS state `st`. -/
def fsInstr (w : StimWord) (st : FsState) : Instr := decodeFs (fsKey w st) (swData w)

/-- The LV operation that `w` selects beside the publish strobe `pub`. -/
def lvInstr (w : StimWord) (pub : Bool) : Instr := decodeLv (lvKey w pub)

/-- Why a byte sequence is the image of no operation. -/
inductive DecodeError where
  /-- an image is one byte (LV) or two (FS) -/
  | badLength
  /-- a bit above the 5 of `FSK` or the 3 of `LVK` is set in the key byte -/
  | bitsAboveKey
  deriving DecidableEq, Repr

/-- The operation a byte image stands for. DESIGN CHOICE (log entry 9): an FS operation is its key
byte, then its data byte; an LV operation is its key byte; the key is in the byte's low bits. -/
def decode : List Byte → Except DecodeError Instr
  | [k] => if k.toNat < 8 then .ok (decodeLv (k.setWidth 3)) else .error .bitsAboveKey
  | [k, b] => if k.toNat < 32 then .ok (decodeFs (k.setWidth 5) b) else .error .bitsAboveKey
  | _ => .error .badLength

/-- The key byte of an operation: its row's match value (R94, R95), don't-care bits zero. -/
def Instr.keyByte : Instr → Byte
  | .fsReset => 0b10000
  | .fsTerr => 0b01000
  | .fsIll => 0b00011
  | .fsIdleS => 0b00000
  | .fsIdleP => 0b00001
  | .fsIdleC => 0b00010
  | .fsSeekByte _ => 0b00100
  | .fsPayloadByte _ => 0b00101
  | .fsChecksumByte _ => 0b00110
  | .lvReset => 0b100
  | .lvIdle => 0b000
  | .lvTryread => 0b001
  | .lvPublish => 0b010
  | .lvPublishTryread => 0b011

/-- The data byte of an operation: `in_data` where it is an operand (R98), else zero. -/
def Instr.dataByte : Instr → Byte
  | .fsSeekByte b => b
  | .fsPayloadByte b => b
  | .fsChecksumByte b => b
  | .fsReset => 0
  | .fsTerr => 0
  | .fsIll => 0
  | .fsIdleS => 0
  | .fsIdleP => 0
  | .fsIdleC => 0
  | .lvReset => 0
  | .lvIdle => 0
  | .lvTryread => 0
  | .lvPublish => 0
  | .lvPublishTryread => 0

/-- The byte image of an operation (log entry 9). -/
def encode (i : Instr) : List Byte := if i.isFs then [i.keyByte, i.dataByte] else [i.keyByte]

/-- The image of the FS operation that `w` selects in FS state `st`. -/
def fsImage (w : StimWord) (st : FsState) : List Byte := [(fsKey w st).setWidth 8, swData w]

/-- The image of the LV operation that `w` selects beside `pub`. -/
def lvImage (w : StimWord) (pub : Bool) : List Byte := [(lvKey w pub).setWidth 8]

/-- The instruction read from a table word. DESIGN CHOICE (log entry 8): the table numbers the keys
of its two formats from bit 0 alike, so a word of 8 bits is read as an FSK, with data byte zero (a
longer word has the data byte in bits 15..8); only a word given as the bare 3 bits of an LVK is
read as one. -/
def decodeTableWord (nbits w : Nat) : Option Instr :=
  let image : List Byte :=
    if nbits ≤ 3 then [BitVec.ofNat 8 w] else [BitVec.ofNat 8 w, BitVec.ofNat 8 (w / 256)]
  if 2 ^ max nbits 8 ≤ w then none
  else match decode image with
    | .ok i => some i
    | .error _ => none

/-! The table as rows. -/

/-- A row of spec/opcode_table.json: `fsk` says the format, FSK or LVK. -/
structure OpRow where
  mnemonic : String
  fsk : Bool
  value : Byte
  mask : Byte
  deriving DecidableEq, Repr

/-- The rows of R94 and R95, in the table's order. -/
def opRows : List OpRow :=
  [ ⟨"FS.RESET", true, 0b10000, 0b10000⟩, ⟨"FS.TERR", true, 0b01000, 0b11000⟩,
    ⟨"FS.ILL", true, 0b00011, 0b11011⟩, ⟨"FS.IDLE.S", true, 0b00000, 0b11111⟩,
    ⟨"FS.IDLE.P", true, 0b00001, 0b11111⟩, ⟨"FS.IDLE.C", true, 0b00010, 0b11111⟩,
    ⟨"FS.SEEK_BYTE", true, 0b00100, 0b11111⟩, ⟨"FS.PAYLOAD_BYTE", true, 0b00101, 0b11111⟩,
    ⟨"FS.CHECKSUM_BYTE", true, 0b00110, 0b11111⟩, ⟨"LV.RESET", false, 0b100, 0b100⟩,
    ⟨"LV.IDLE", false, 0b000, 0b111⟩, ⟨"LV.TRYREAD", false, 0b001, 0b111⟩,
    ⟨"LV.PUBLISH", false, 0b010, 0b111⟩, ⟨"LV.PUBLISH_TRYREAD", false, 0b011, 0b111⟩ ]

/-- The rows of one format that a key matches. -/
def rowsMatching (fsk : Bool) (k : Byte) : List OpRow :=
  opRows.filter fun r => r.fsk == fsk && k &&& r.mask == r.value

end Sys2Proof
end

