-- ==== Sys2Proof/Machine/State.lean ====
section
/-! DEFINITION. The registers and storage of the block (R24 to R34, and no others by R35), its
build-time parameters, and two fields of the model's own (the stimulus not yet sampled and the
number of the next clock edge). The registers stand in two groups, by R120's list of what the FS
and what the LV writes. -/

namespace Sys2Proof.Machine

/-- Why the machine stops. The spec's block never stops (R213); this is the model's own guard. -/
inductive Fault where
  /-- Raised by FS.PAYLOAD_BYTE alone, when `(w_idx, pcnt)` is no address of the slot store of R60
  (a slot of 3, or a byte index of PLEN or more). No state reachable from reset raises it (R40). SAFE
  (log entry 7): the model stops where the spec names no storage byte. -/
  | slotOutsideStore
  deriving DecidableEq, Repr

/-- Why the machine refuses. -/
inductive Refusal where
  /-- Raised by an arm of `exec` whose operation has no meaning yet; none is left. SAFE. -/
  | notModelled (mnemonic : String)
  deriving DecidableEq, Repr

/-- The registers that the FS operations write (R120). -/
structure FsRegs where
  /-- `fs_state[1:0]` (R24) -/
  state : FsState
  /-- `midx[1:0]`, marker bytes matched so far (R25) -/
  midx : MarkerIdx
  /-- `pcnt[PCNT_W-1:0]`, payload bytes taken (R26); a count below PLEN, log entry 4 -/
  pcnt : Nat
  /-- `sum[7:0]`, the running checksum (R27) -/
  sum : Byte
  /-- `ev_valid` (R34) -/
  evValid : Bool
  /-- `ev_kind[1:0]` (R34) -/
  evKind : EvKind
  /-- `ev_gen[GEN_W-1:0]` (R34); a number below 2^GEN_W, log entry 3 -/
  evGen : Nat
  deriving DecidableEq, Repr

/-- The registers that the LV operations write (R120). -/
structure LvRegs where
  /-- `w_idx[1:0]`, the back slot (R28) -/
  wIdx : SlotIdx
  /-- `m_idx[1:0]`, the middle slot (R28) -/
  mIdx : SlotIdx
  /-- `r_idx[1:0]`, the reader slot (R28) -/
  rIdx : SlotIdx
  /-- `has_value` (R29) -/
  hasValue : Bool
  /-- `fresh` (R30) -/
  fresh : Bool
  /-- `gen[GEN_W-1:0]` (R32); log entry 3 -/
  gen : Nat
  /-- `r_seen` (R33) -/
  rSeen : Bool
  /-- `r_gen[GEN_W-1:0]` (R33); log entry 3 -/
  rGen : Nat
  /-- `rd_done` (R34) -/
  rdDone : Bool
  /-- `rd_hit` (R34) -/
  rdHit : Bool
  deriving DecidableEq, Repr

/-- The slot store of R31 and R60 as cells: strictly rising addresses, one cell for each byte that
has been written since power-on (log entries 5 and 6). -/
abbrev Memory := List Host.Cell

/-- The whole block, with what stands around it as plain data. -/
structure State where
  /-- the build-time parameters (R6); no operation writes them (log entry 2) -/
  cfg : Config
  /-- the frame synchronizer's registers and the event port's -/
  fs : FsRegs
  /-- the latest-value cell's registers and the read port's -/
  lv : LvRegs
  /-- `slot[0..2][0..PLEN-1]` (R31) -/
  slots : Memory
  /-- MODEL'S OWN (log entry 1): stimulus words placed by the environment, next edge first -/
  inputs : List StimWord
  /-- MODEL'S OWN (log entry 1): the number of the next clock edge; it numbers the free stimulus -/
  cycle : Nat
  deriving DecidableEq, Repr

/-- The reset values of R45 for what the FS writes. -/
def FsRegs.reset : FsRegs :=
  { state := .seek, midx := 0, pcnt := 0, sum := 0, evValid := false, evKind := .frameOk, evGen := 0 }

/-- The reset values of R45 for what the LV writes. -/
def LvRegs.reset : LvRegs :=
  { wIdx := 0, mIdx := 1, rIdx := 2, hasValue := false, fresh := false, gen := 0, rSeen := false,
    rGen := 0, rdDone := false, rdHit := false }

/-- The block of build `c` right after its first reset, nothing stored since power-on (R45, R230,
R232) and no stimulus placed. -/
def State.resetOf (c : Config) : State :=
  { cfg := c, fs := FsRegs.reset, lv := LvRegs.reset, slots := [], inputs := [], cycle := 0 }

/-- The machine right after reset, in the build of the spec's own vectors (log entry 2). -/
def State.reset : State := State.resetOf Config.standard

end Sys2Proof.Machine
end

