-- ==== Sys2Proof/Machine/Flags.lean ====
section
/-! DEFINITION. How the flags and the output registers are written (R37): the event port's
registers by the FS (R200), the read port's answer by the LV (R168). The cell's own flags
`has_value`, `fresh` and `r_seen` are written by `publish` and `tryRead` of Machine/Ops.lean. -/

namespace Sys2Proof.Machine

/-- An edge that reports no event: `ev_valid <- 0`; `ev_kind` and `ev_gen` keep their values (R34). -/
def State.noEvent (s : State) : State := { s with fs := { s.fs with evValid := false } }

/-- An edge that reports the event `k` with generation `g` (R200, R201). -/
def State.reportEvent (k : EvKind) (g : Nat) (s : State) : State :=
  { s with fs := { s.fs with evValid := true, evKind := k, evGen := g } }

/-- No read was requested: `rd_done <- 0; rd_hit <- 0` (R164, R166). -/
def State.noAnswer (s : State) : State := { s with lv := { s.lv with rdDone := false, rdHit := false } }

/-- A read was requested: `rd_done <- 1; rd_hit <- hit` (R165, R167). -/
def State.answerRead (hit : Bool) (s : State) : State :=
  { s with lv := { s.lv with rdDone := true, rdHit := hit } }

end Sys2Proof.Machine
end

