-- ==== Sys2Proof/Machine/Operands.lean ====
section
/-! DEFINITION. The operand forms (R98) and the arithmetic on them (R14, R131): the compared
constants, the wrapping sums, the store index. Every operand is read from pre-edge values (R13). -/

namespace Sys2Proof.Machine

/-- `sum8(p)`: the fold of `+8` over `p`, starting from 0 (R14). -/
def sum8 (p : List Byte) : Byte := p.foldl (fun acc b => acc + b) 0

/-- `a +G b = (a + b) mod 2^GEN_W` (R14). -/
def addG (c : Config) (a b : Nat) : Nat := (a + b) % 2 ^ c.genW

/-- `MAGIC[i]`, the 2-bit index zero-extended (R98). -/
def magicAt (m : Magic) (i : MarkerIdx) : Byte :=
  if i = 0 then m.m0 else if i = 1 then m.m1 else if i = 2 then m.m2 else m.m3

/-- The marker byte that FS.SEEK_BYTE compares with first, `MAGIC[midx]` (R98, R124). -/
def markerOperand (s : State) : Byte := magicAt s.cfg.magic s.fs.midx

/-- `MAGIC[0]`, which a mismatching byte is tested against (R98, R124). -/
def markerStart (s : State) : Byte := s.cfg.magic.m0

/-- `sum +8 b` (R98, R131). -/
def sumWith (s : State) (b : Byte) : Byte := s.fs.sum + b

/-- The checksum compare `b == sum`, 8-bit unsigned equality (R98). -/
def checksumMatches (s : State) (b : Byte) : Bool := b == s.fs.sum

/-- `pcnt == PLEN - 1`: the byte taken now is the payload's last (R126). -/
def lastPayloadByte (s : State) : Bool := s.fs.pcnt + 1 == s.cfg.plen

/-- `gen +G 1`, the generation that a publish on this edge gives (R127, R162). -/
def nextGen (s : State) : Nat := addG s.cfg s.lv.gen 1

/-- The cell address of slot byte `(i, k)`. DESIGN CHOICE (log entry 5): slot by slot, byte by byte,
so that the store is the addresses 0 to 3·PLEN - 1. -/
def slotKey (c : Config) (i : SlotIdx) (k : Nat) : Nat := i.toNat * c.plen + k

/-- The cell address of `(i, k)` where R60 gives the store such a byte: slot 0..2, index 0..PLEN-1. -/
def slotAddr (c : Config) (i : SlotIdx) (k : Nat) : Option Nat :=
  if i.toNat < 3 ∧ k < c.plen then some (slotKey c i k) else none

end Sys2Proof.Machine
end

