-- ==== Sys2Proof/Machine/Ops.lean ====
section
/-! DEFINITION. The named operations that the meanings share: the slot store (R15, R60), the
sequencer position (R36), taking an error (R212), `publish` and `try_read` (R162, R163). -/

namespace Sys2Proof.Machine

/-! The slot store. -/

/-- What an unlisted address reads as: no value (log entry 6). The read port shows such a byte as
the free value of its address. -/
def unlistedByte (_ : Nat) : Option Byte := none

/-- The byte stored at address `a`. -/
def Memory.read : Memory → Nat → Option Byte
  | [], a => unlistedByte a
  | (k, v) :: rest, a => if k = a then some v else Memory.read rest a

/-- The store with `v` at address `a`, its cells kept in rising order. Since no byte value is what
an unlisted address reads as, a write never removes a cell. -/
def Memory.write : Memory → Nat → Byte → Memory
  | [], a, v => [(a, v)]
  | (k, w) :: rest, a, v =>
    if a < k then (a, v) :: (k, w) :: rest
    else if a = k then (a, v) :: rest
    else (k, w) :: Memory.write rest a v

/-- The canonical form: strictly rising addresses, and no cell that says what an unlisted address
reads as. -/
abbrev Memory.wf (m : Memory) : Prop :=
  m.Pairwise (fun x y => x.1 < y.1) ∧ ∀ x ∈ m, unlistedByte x.1 ≠ some x.2

/-- `MemRead((i, k), 1)` (R15): the byte of slot `i` at index `k`, none where nothing has been
written there since power-on or where the store has no such byte. -/
def slotRead (s : State) (i : SlotIdx) (k : Nat) : Option Byte :=
  (slotAddr s.cfg i k).bind (Memory.read s.slots)

/-- The byte that slot `i` shows at index `k`: what was last stored, else the free value (R45). -/
def slotByte (s : State) (i : SlotIdx) (k : Nat) : Byte :=
  (slotRead s i k).getD (Config.freeByte (slotKey s.cfg i k))

/-- The whole slot `i` as a frame, byte 0 first (R61). -/
def slotFrame (s : State) (i : SlotIdx) : List Byte := (List.range s.cfg.plen).map (slotByte s i)

/-- `MemWrite((i, k), 1, v)` (R15): none where the store has no such byte. -/
def slotWrite (s : State) (i : SlotIdx) (k : Nat) (v : Byte) : Option State :=
  (slotAddr s.cfg i k).map fun a => { s with slots := Memory.write s.slots a v }

/-! The sequencer position `(fs_state, midx, pcnt)` with the sum that goes with it (R16, R36). -/

/-- `fs_state <- SEEK; midx <- 0; pcnt <- 0; sum <- 0`: the clean start. -/
def State.backToSeek (s : State) : State :=
  { s with fs := { s.fs with state := .seek, midx := 0, pcnt := 0, sum := 0 } }

/-- `midx <- k` (R124). -/
def State.setMidx (k : MarkerIdx) (s : State) : State := { s with fs := { s.fs with midx := k } }

/-- The marker is complete: `fs_state <- PAYLOAD; midx <- 0; pcnt <- 0; sum <- 0` (R124). -/
def State.enterPayload (s : State) : State :=
  { s with fs := { s.fs with state := .payload, midx := 0, pcnt := 0, sum := 0 } }

/-- After a payload byte that is not the last: `sum <- v; pcnt <- k` (R126). -/
def State.advancePayload (k : Nat) (v : Byte) (s : State) : State :=
  { s with fs := { s.fs with pcnt := k, sum := v } }

/-- After the last payload byte: `sum <- v; fs_state <- CHECKSUM; pcnt <- 0` (R126). -/
def State.enterChecksum (v : Byte) (s : State) : State :=
  { s with fs := { s.fs with state := .checksum, pcnt := 0, sum := v } }

/-! Errors: the block's whole analogue of taking an exception. -/

/-- Taking an error (R212): seek again from a clean start and report the error with `gen` as it is;
nothing is saved, no handler runs, the cell is not touched. There is no return from it (R213): the
FS is already seeking on the next cycle. -/
def takeError (k : EvKind) (s : State) : State := (s.backToSeek).reportEvent k s.lv.gen

/-! The cell's primitives. -/

/-- `publish()` (R162): exchange back and middle; the frame is there and fresh; `gen <- gen +G 1`. -/
def publish (s : State) : State :=
  { s with lv := { s.lv with wIdx := s.lv.mIdx, mIdx := s.lv.wIdx, hasValue := true, fresh := true,
                             gen := nextGen s } }

/-- `try_read()` (R163), with `true` for HIT: exchange middle and reader if fresh; a miss changes no
register. -/
def tryRead (s : State) : State × Bool :=
  if s.lv.fresh then
    ({ s with lv := { s.lv with rIdx := s.lv.mIdx, mIdx := s.lv.rIdx, fresh := false, rSeen := true,
                                rGen := s.lv.gen } }, true)
  else (s, false)

/-- The rotation of R167 when the read of a same-cycle publish hits: the reader takes the old
middle, the middle the new frame, the back the freed reader slot. -/
def rotate (s : State) : State :=
  { s with lv := { s.lv with rIdx := s.lv.mIdx, mIdx := s.lv.wIdx, wIdx := s.lv.rIdx, rSeen := true,
                             rGen := s.lv.gen } }

/-- The exchange of R167 when the read misses. -/
def exchangeBackMiddle (s : State) : State :=
  { s with lv := { s.lv with wIdx := s.lv.mIdx, mIdx := s.lv.wIdx } }

/-- `has_value <- 1; fresh <- 1; gen <- gen +G 1`, the last line of R167. -/
def markPublished (s : State) : State :=
  { s with lv := { s.lv with hasValue := true, fresh := true, gen := nextGen s } }

/-- The publish strobe `pub` of an FS operation (R93, R127): 1 only for a checksum byte that
matches. -/
def publishStrobe (i : Instr) (s : State) : Bool :=
  match i with
  | .fsChecksumByte b => checksumMatches s b
  | .fsReset => false
  | .fsTerr => false
  | .fsIll => false
  | .fsIdleS => false
  | .fsIdleP => false
  | .fsIdleC => false
  | .fsSeekByte _ => false
  | .fsPayloadByte _ => false
  | .lvReset => false
  | .lvIdle => false
  | .lvTryread => false
  | .lvPublish => false
  | .lvPublishTryread => false

end Sys2Proof.Machine
end

