-- ==== Sys2Proof/Machine/Cell.lean ====
section
/-! DEFINITION. LV.IDLE, LV.TRYREAD, LV.PUBLISH and LV.PUBLISH_TRYREAD: the latest-value cell
(R164 to R167). -/

namespace Sys2Proof.Machine

/-- LV.IDLE (R164). -/
def execLvIdle (s : State) : Host.Outcome State Fault Refusal := .next s.noAnswer

/-- LV.TRYREAD (R165). A miss is a normal result (R204). -/
def execLvTryread (s : State) : Host.Outcome State Fault Refusal :=
  .next ((tryRead s).1.answerRead (tryRead s).2)

/-- LV.PUBLISH (R166). -/
def execLvPublish (s : State) : Host.Outcome State Fault Refusal := .next (publish s).noAnswer

/-- LV.PUBLISH_TRYREAD (R167): the read sees the state before the publish (D10). -/
def execLvPublishTryread (s : State) : Host.Outcome State Fault Refusal :=
  if s.lv.fresh then .next ((markPublished (rotate s)).answerRead true)
  else .next ((markPublished (exchangeBackMiddle s)).answerRead false)

end Sys2Proof.Machine
end

