-- ==== Sys2Proof/Machine/FsByte.lean ====
section
/-! DEFINITION. FS.SEEK_BYTE, FS.PAYLOAD_BYTE and FS.CHECKSUM_BYTE: a byte taken while seeking the
marker, in the payload, and as the checksum (R124, R126, R127). -/

namespace Sys2Proof.Machine

/-- FS.SEEK_BYTE (R124): compare byte by byte; on a mismatch drop the partial match whole and test
the byte once against `MAGIC[0]` (the reading of C1). -/
def execFsSeekByte (b : Byte) (s : State) : Host.Outcome State Fault Refusal :=
  if b = markerOperand s then
    if s.fs.midx = 3 then .next s.enterPayload.noEvent
    else .next (s.setMidx (s.fs.midx + 1)).noEvent
  else if b = markerStart s then .next (s.setMidx 1).noEvent
  else .next (s.setMidx 0).noEvent

/-- FS.PAYLOAD_BYTE (R126): store the byte at `(w_idx, pcnt)` and sum it. A position outside the
store is a fault (log entry 7). -/
def execFsPayloadByte (b : Byte) (s : State) : Host.Outcome State Fault Refusal :=
  match slotWrite s s.lv.wIdx s.fs.pcnt b with
  | none => .fault .slotOutsideStore
  | some t =>
    if lastPayloadByte s then .next (t.enterChecksum (sumWith s b)).noEvent
    else .next (t.advancePayload (s.fs.pcnt + 1) (sumWith s b)).noEvent

/-- FS.CHECKSUM_BYTE (R127): a match reports FRAME_OK with the new generation (the publish itself is
the LV operation of the same edge); a mismatch is the error CHECKSUM_MISMATCH. -/
def execFsChecksumByte (b : Byte) (s : State) : Host.Outcome State Fault Refusal :=
  if checksumMatches s b then .next (s.backToSeek.reportEvent .frameOk (nextGen s))
  else .next (takeError .checksumMismatch s)

end Sys2Proof.Machine
end

