-- ==== Sys2Proof/Machine/FsError.lean ====
section
/-! DEFINITION. FS.TERR and FS.ILL: a transport error in any state (R128), and the silent recovery
from the illegal state code (R129). -/

namespace Sys2Proof.Machine

/-- FS.TERR (R128): the error TRANSPORT_ERROR; a byte of the same cycle is dropped. -/
def execFsTerr (s : State) : Host.Outcome State Fault Refusal := .next (takeError .transportError s)

/-- FS.ILL (R129): back to SEEK with no event; the byte, if any, is dropped. -/
def execFsIll (s : State) : Host.Outcome State Fault Refusal := .next s.backToSeek.noEvent

end Sys2Proof.Machine
end

