-- ==== Sys2Proof/Machine/FsIdle.lean ====
section
/-! DEFINITION. FS.IDLE.S, FS.IDLE.P and FS.IDLE.C: no byte in this cycle (R121 to R123). There is
no timeout (D23). -/

namespace Sys2Proof.Machine

/-- FS.IDLE.S (R121): a partial match survives. -/
def execFsIdleS (s : State) : Host.Outcome State Fault Refusal := .next s.noEvent

/-- FS.IDLE.P (R122): the message stays open; no slot write. -/
def execFsIdleP (s : State) : Host.Outcome State Fault Refusal := .next s.noEvent

/-- FS.IDLE.C (R123): the payload waits in the back slot. -/
def execFsIdleC (s : State) : Host.Outcome State Fault Refusal := .next s.noEvent

end Sys2Proof.Machine
end

