-- ==== Sys2Proof/Machine/Reset.lean ====
section
/-! DEFINITION. FS.RESET and LV.RESET, selected together by `SW[11]` (R230): every register takes
its reset value of R45, each half the registers it owns (R120); the slots are not written. -/

namespace Sys2Proof.Machine

/-- FS.RESET (R230). -/
def execFsReset (s : State) : Host.Outcome State Fault Refusal := .next { s with fs := FsRegs.reset }

/-- LV.RESET (R230). -/
def execLvReset (s : State) : Host.Outcome State Fault Refusal := .next { s with lv := LvRegs.reset }

end Sys2Proof.Machine
end

