-- ==== Sys2Proof/Machine/Dispatch.lean ====
section
/-! DEFINITION. The operation of each row of spec/opcode_table.json: one arm a constructor. -/

namespace Sys2Proof.Machine

/-- The effect of one operation on the registers its half of the block writes (R120). -/
def exec (i : Instr) (s : State) : Host.Outcome State Fault Refusal :=
  match i with
  | .fsReset => Sys2Proof.Machine.execFsReset s
  | .fsTerr => Sys2Proof.Machine.execFsTerr s
  | .fsIll => Sys2Proof.Machine.execFsIll s
  | .fsIdleS => Sys2Proof.Machine.execFsIdleS s
  | .fsIdleP => Sys2Proof.Machine.execFsIdleP s
  | .fsIdleC => Sys2Proof.Machine.execFsIdleC s
  | .fsSeekByte b => Sys2Proof.Machine.execFsSeekByte b s
  | .fsPayloadByte b => Sys2Proof.Machine.execFsPayloadByte b s
  | .fsChecksumByte b => Sys2Proof.Machine.execFsChecksumByte b s
  | .lvReset => Sys2Proof.Machine.execLvReset s
  | .lvIdle => Sys2Proof.Machine.execLvIdle s
  | .lvTryread => Sys2Proof.Machine.execLvTryread s
  | .lvPublish => Sys2Proof.Machine.execLvPublish s
  | .lvPublishTryread => Sys2Proof.Machine.execLvPublishTryread s

end Sys2Proof.Machine
end

