-- ==== Sys2Proof/Machine/Edge.lean ====
section
/-! DEFINITION. One clock edge (R120): which stimulus word it samples, which two operations that
word selects, how their assignments take effect together (R13). -/

namespace Sys2Proof.Machine

/-- The stimulus word the next edge samples, and the state with it taken: the first word placed by
the environment, else the free choice of the environment and the reader client (R10, log entry 1). -/
def sampleInput (s : State) : StimWord × State :=
  match s.inputs with
  | [] => (Config.freeStimulus s.cycle, { s with cycle := s.cycle + 1 })
  | w :: rest => (w, { s with inputs := rest, cycle := s.cycle + 1 })

/-- The two operations that `w` selects in state `s`, both keys formed from pre-edge values, the LV
key from the publish strobe of the FS operation (R93). -/
def edgeOps (w : StimWord) (s : State) : EdgeOps :=
  { fs := fsInstr w s.fs.state, lv := lvInstr w (publishStrobe (fsInstr w s.fs.state) s) }

/-- The assignments of both halves, each made from the same pre-edge state, taking effect at one
edge: `sf` has the FS's registers and the slots, `sl` the LV's registers (R13, R120). -/
def mergeHalves (sf sl : State) : State := { sf with lv := sl.lv }

/-- Both operations on the pre-edge state `s`; a fault of either half stops the edge. -/
def runOps (o : EdgeOps) (s : State) : Host.Outcome State Fault Refusal :=
  match exec o.fs s, exec o.lv s with
  | .next sf, .next sl => .next (mergeHalves sf sl)
  | .next _, stop => stop
  | stop, _ => stop

/-- One rising edge of `clk` that samples `w` (R120). -/
def edge (w : StimWord) (s : State) : Host.Outcome State Fault Refusal := runOps (edgeOps w s) s

/-- The edge that samples the next stimulus word of the state itself. -/
def nextEdge (s : State) : Host.Outcome State Fault Refusal := edge (sampleInput s).1 (sampleInput s).2

/-- `s` with an FSK word as the next edge's: its three input bits as the stimulus, data byte from
bits 15..8 of the word, and `fs_state`, which is part of the key, set to the key's state bits. -/
def placeFsWord (s : State) (w : Nat) : State :=
  let k : FsKey := BitVec.ofNat 5 w
  let sw := mkStim (k.getLsbD 4) (k.getLsbD 3) (k.getLsbD 2) false (BitVec.ofNat 8 (w / 256))
  { s with fs := { s.fs with state := FsState.ofCode (k.extractLsb' 0 2) }, inputs := sw :: s.inputs }

/-- `s` with an LVK word as the next edge's. The publish strobe is internal, so a word that has it
needs the FS in CHECKSUM with the byte that matches. -/
def placeLvWord (s : State) (w : Nat) : State :=
  let k : LvKey := BitVec.ofNat 3 w
  if k.getLsbD 1 then
    { s with fs := { s.fs with state := .checksum }
             inputs := mkStim (k.getLsbD 2) false true (k.getLsbD 0) s.fs.sum :: s.inputs }
  else { s with inputs := mkStim (k.getLsbD 2) false false (k.getLsbD 0) 0 :: s.inputs }

/-- The table word as the next edge's, read as `decodeTableWord` reads it (log entry 8). -/
def placeTableWord (s : State) (nbits w : Nat) : State :=
  if nbits ≤ 3 then placeLvWord s w else placeFsWord s w

end Sys2Proof.Machine
end

