-- ==== Sys2Proof/Machine/Step.lean ====
section
/-! DEFINITION. One step is one rising edge of `clk` (R10, R13); it takes no more than one cycle
(R130). -/

namespace Sys2Proof.Machine

/-- One clock edge on the next stimulus word. -/
def step (s : State) : Host.Outcome State Fault Refusal := nextEdge s

/-- `s` with a table word placed as the stimulus of its next edge (log entries 8 and 11). -/
def State.withFetchWord (s : State) (nbits w : Nat) : State := placeTableWord s nbits w

end Sys2Proof.Machine
end

