-- ==== Sys2Proof/Machine/Ports.lean ====
section
/-! DEFINITION. The output ports (R21, R22), the read port's fallback selector (R175), the lanes of
`rd_frame` (R64) and the channels of a frame (R62). Observing a port has no side effect (R68). -/

namespace Sys2Proof.Machine

/-- `rd_frame` byte by byte, byte 0 first: the held frame once the reader has one, else `FALLBACK`
(R175). -/
def rdFrame (s : State) : List Byte := if s.lv.rSeen then slotFrame s s.lv.rIdx else s.cfg.fallback

/-- A byte sequence packed with byte 0 in the least significant lane (R64). -/
def packLanes : List Byte → Nat
  | [] => 0
  | b :: rest => b.toNat + 256 * packLanes rest

/-- `rd_frame[8·PLEN-1:0]` (R22, R64). -/
def rdFrameBus (s : State) : BitVec (8 * s.cfg.plen) := BitVec.ofNat _ (packLanes (rdFrame s))

/-- Everything a port of the block shows in a cycle (R21, R22). -/
structure Ports where
  evValid : Bool
  evKind : EvKind
  evGen : Nat
  rdDone : Bool
  rdHit : Bool
  rdGen : Nat
  rdHas : Bool
  rdFrame : List Byte
  deriving DecidableEq, Repr

/-- The ports, each driven by its register directly (R34) or by R175. -/
def State.ports (s : State) : Ports :=
  { evValid := s.fs.evValid, evKind := s.fs.evKind, evGen := s.fs.evGen, rdDone := s.lv.rdDone
    rdHit := s.lv.rdHit, rdGen := s.lv.rGen, rdHas := s.lv.rSeen, rdFrame := rdFrame s }

/-- A colour channel of a frame; byte `3·i + c` is channel `c` of LED `i` (R62, R90). -/
inductive Channel where
  | red
  | green
  | blue
  deriving DecidableEq, Repr

/-- The channel's place in its triplet (R62). -/
def Channel.offset : Channel → Nat
  | .red => 0
  | .green => 1
  | .blue => 2

/-- The byte of a frame that is channel `c` of LED `i` (R62). -/
def ledChannel (frame : List Byte) (i : Nat) (c : Channel) : Option Byte := frame[3 * i + c.offset]?

end Sys2Proof.Machine
end

