-- ==== Sys2Proof/Machine/Stimulus.lean ====
section
/-! DEFINITION. The wire format of a message (R90) and the stimulus assembler (R101, R102). -/

namespace Sys2Proof.Machine

/-- A message on the wire with checksum byte `k`: marker, payload, checksum (R62, R90). -/
def messageWith (c : Config) (p : List Byte) (k : Byte) : List Byte := c.magic.bytes ++ p ++ [k]

/-- A valid message: its checksum byte is `sum8` of its payload (R90). -/
def message (c : Config) (p : List Byte) : List Byte := messageWith c p (sum8 p)

/-- The stimulus word of a line (R101). -/
def lineWord : Line → StimWord
  | .idle => 0x000
  | .byte b => 0x200 ||| b.setWidth 12
  | .err => 0x400
  | .errByte b => 0x600 ||| b.setWidth 12
  | .rst => 0x800
  | .read => 0x100

/-- The line's word with the suffix `, R` (R101). -/
def withRead (w : StimWord) : StimWord := w ||| 0x100

/-- The words of a byte sequence, one `B` line a byte (R102). -/
def byteWords (bs : List Byte) : List StimWord := bs.map fun b => lineWord (.byte b)

/-- The words of one source item; `last` is the payload of the nearest preceding `PAY`, which `CSUM`
and `BADCSUM` need (R102). -/
def sourceWords (c : Config) (last : Option (List Byte)) : Source → Option (List StimWord)
  | .line l => some [lineWord l]
  | .idles n => some (List.replicate n (lineWord .idle))
  | .bytes hs => some (byteWords hs)
  | .magic => some (byteWords c.magic.bytes)
  | .pay p => some (byteWords p)
  | .csum => last.map fun p => byteWords [sum8 p]
  | .badCsum d => last.map fun p => byteWords [sum8 p + d]
  | .msg p => some (byteWords (message c p))
  | .badMsg d p => some (byteWords (messageWith c p (sum8 p + d)))

/-- The payload that a later `CSUM` means, after this source item; `MSG` and `BADMSG` hold a `PAY`. -/
def lastPayload (last : Option (List Byte)) : Source → Option (List Byte)
  | .line _ => last
  | .idles _ => last
  | .bytes _ => last
  | .magic => last
  | .pay p => some p
  | .csum => last
  | .badCsum _ => last
  | .msg p => some p
  | .badMsg _ p => some p

/-- The words of a source text, one a clock cycle; none where a row is ill formed or a `CSUM` has no
`PAY` before it. -/
def assemble (c : Config) (last : Option (List Byte)) : List SourceRow → Option (List StimWord)
  | [] => some []
  | r :: rest =>
    if r.wellFormed c then do
      let here ← sourceWords c last r.what
      let after ← assemble c (lastPayload last r.what) rest
      return (if r.andRead then here.map withRead else here) ++ after
    else none

end Sys2Proof.Machine
end

