-- ==== Sys2Proof/Machine/Transaction.lean ====
section
/-! DEFINITION. The transaction view of the cell (R17, R185) and the mapping of the cycle view onto
it (R186). The machine itself is the cycle view (log entry 12). -/

namespace Sys2Proof.Machine

/-- The abstract state of R185. -/
structure CellView where
  /-- the FS's payload buffer, PLEN bytes; only those of the current message are defined -/
  pbuf : List Byte
  /-- the latest frame, none iff the cell is empty -/
  latest : Option (List Byte)
  fresh : Bool
  gen : Nat
  /-- the reader's last hit: frame and generation -/
  held : Option (List Byte × Nat)
  deriving DecidableEq, Repr

/-- `publish()` of R185. Afterwards every byte of `pbuf` is undefined: `junk` is any frame. -/
def CellView.publish (c : Config) (junk : List Byte) (v : CellView) : CellView :=
  { v with latest := some v.pbuf, fresh := true, gen := addG c v.gen 1, pbuf := junk }

/-- `try_read()` of R185, with `true` for HIT. A fresh cell has a latest frame. -/
def CellView.tryRead (v : CellView) : CellView × Bool :=
  match v.fresh, v.latest with
  | true, some f => ({ v with held := some (f, v.gen), fresh := false }, true)
  | _, _ => (v, false)

/-- The payload write of R126 in this view: `pbuf[k] := b`. -/
def CellView.store (k : Nat) (b : Byte) (v : CellView) : CellView := { v with pbuf := v.pbuf.set k b }

/-- The empty cell, as reset leaves it (R230). No message is open, so no byte of `pbuf` is defined
(R185): `junk` is any frame. -/
def CellView.clear (junk : List Byte) : CellView :=
  { pbuf := junk, latest := none, fresh := false, gen := 0, held := none }

/-- `rd_frame` of R185. -/
def CellView.rdFrame (c : Config) (v : CellView) : List Byte :=
  match v.held with
  | some (f, _) => f
  | none => c.fallback

/-- What an FS operation does to the view; `k` is the store index `pcnt` (R126). -/
def CellView.fsOp (i : Instr) (k : Nat) (v : CellView) : CellView :=
  match i with
  | .fsPayloadByte b => v.store k b
  | .fsReset => v
  | .fsTerr => v
  | .fsIll => v
  | .fsIdleS => v
  | .fsIdleP => v
  | .fsIdleC => v
  | .fsSeekByte _ => v
  | .fsChecksumByte _ => v
  | .lvReset => v
  | .lvIdle => v
  | .lvTryread => v
  | .lvPublish => v
  | .lvPublishTryread => v

/-- What an LV operation does to the view, and whether a read hit (R185). -/
def CellView.lvOp (c : Config) (junk : List Byte) (i : Instr) (v : CellView) : CellView × Bool :=
  match i with
  | .lvReset => (CellView.clear junk, false)
  | .lvIdle => (v, false)
  | .lvTryread => v.tryRead
  | .lvPublish => (v.publish c junk, false)
  | .lvPublishTryread => (v.tryRead.1.publish c junk, v.tryRead.2)
  | .fsReset => (v, false)
  | .fsTerr => (v, false)
  | .fsIll => (v, false)
  | .fsIdleS => (v, false)
  | .fsIdleP => (v, false)
  | .fsIdleC => (v, false)
  | .fsSeekByte _ => (v, false)
  | .fsPayloadByte _ => (v, false)
  | .fsChecksumByte _ => (v, false)

/-- `latest` of R186. -/
def latestFrame (s : State) : Option (List Byte) :=
  if s.lv.hasValue then
    if s.lv.fresh then some (slotFrame s s.lv.mIdx) else some (slotFrame s s.lv.rIdx)
  else none

/-- The refinement mapping of R186. -/
def cellView (s : State) : CellView :=
  { pbuf := slotFrame s s.lv.wIdx
    latest := latestFrame s
    fresh := s.lv.fresh
    gen := s.lv.gen
    held := if s.lv.rSeen then some (slotFrame s s.lv.rIdx, s.lv.rGen) else none }

end Sys2Proof.Machine
end

