-- ==== Sys2Proof/Safety.lean ====
section
/-! DEFINITION. The terms that claims are stated in: the invariants of R40, runs over a stimulus
sequence, what such a run reports, and a monitor of the byte stream that is kept beside a run and
knows nothing of slots. -/

namespace Sys2Proof.Machine

/-! ## Invariants -/

/-- How many bytes of the back slot belong to the current message (R26, R143). -/
def bytesTaken (s : State) : Nat :=
  match s.fs.state with
  | .payload => s.fs.pcnt
  | .checksum => s.cfg.plen
  | .seek => 0
  | .illegal => 0

/-- The invariants (I-a) to (I-i) of R40, in its order, over an allowed build (R6). -/
structure R40 (s : State) : Prop where
  built : s.cfg.wellFormed = true
  /-- (I-a): the three indices are a permutation of 0, 1, 2 -/
  indices : s.lv.wIdx.toNat < 3 ∧ s.lv.mIdx.toNat < 3 ∧ s.lv.rIdx.toNat < 3 ∧
    s.lv.wIdx ≠ s.lv.mIdx ∧ s.lv.wIdx ≠ s.lv.rIdx ∧ s.lv.mIdx ≠ s.lv.rIdx
  /-- (I-b) -/
  legalState : s.fs.state ≠ .illegal
  /-- (I-c) -/
  midxOutsideSeek : s.fs.state ≠ .seek → s.fs.midx = 0
  /-- (I-d) -/
  pcntOutsidePayload : s.fs.state ≠ .payload → s.fs.pcnt = 0
  /-- (I-d) -/
  pcntBelowPlen : s.fs.pcnt < s.cfg.plen
  /-- (I-e) -/
  sumInSeek : s.fs.state = .seek → s.fs.sum = 0
  /-- (I-f), first part -/
  sumInPayload : s.fs.state = .payload → s.fs.sum = sum8 ((slotFrame s s.lv.wIdx).take s.fs.pcnt)
  /-- (I-f), second part -/
  sumInChecksum : s.fs.state = .checksum → s.fs.sum = sum8 (slotFrame s s.lv.wIdx)
  /-- (I-g) -/
  freshHasValue : s.lv.fresh = true → s.lv.hasValue = true
  /-- (I-h) -/
  seenHasValue : s.lv.rSeen = true → s.lv.hasValue = true
  /-- (I-i) -/
  readerHoldsLatest : s.lv.hasValue = true → s.lv.fresh = false → s.lv.rSeen = true

/-- The registers hold values of their widths and codes, and the store is canonical and lies within
its 3·PLEN addresses (R31, R60, R97; log entries 3 and 5). -/
structure Typed (s : State) : Prop where
  genBelow : s.lv.gen < 2 ^ s.cfg.genW
  rGenBelow : s.lv.rGen < 2 ^ s.cfg.genW
  evGenBelow : s.fs.evGen < 2 ^ s.cfg.genW
  evKindNotReserved : s.fs.evKind ≠ .reserved
  hitOnlyWhenDone : s.lv.rdHit = true → s.lv.rdDone = true
  storeCanonical : Memory.wf s.slots
  storeInRange : ∀ x ∈ s.slots, x.1 < 3 * s.cfg.plen

/-- Slot `i` has been written at every index below `n` since power-on. -/
def WrittenBelow (s : State) (i : SlotIdx) (n : Nat) : Prop := ∀ k < n, (slotRead s i k).isSome = true

/-- No byte that is or may come to be shown is one that nothing has written (R63, R143). -/
structure ShownBytesWritten (s : State) : Prop where
  back : WrittenBelow s s.lv.wIdx (bytesTaken s)
  middle : s.lv.fresh = true → WrittenBelow s s.lv.mIdx s.cfg.plen
  reader : s.lv.rSeen = true → WrittenBelow s s.lv.rIdx s.cfg.plen

/-! ## Frames -/

/-- Every slot byte reads in `t` as it reads in `s`. -/
def SameBytes (s t : State) : Prop := ∀ j k, slotRead t j k = slotRead s j k

/-- What no FS operation writes (R120): the LV's registers, the build, the stimulus. -/
structure FsLeaves (s t : State) : Prop where
  cfg : t.cfg = s.cfg
  lv : t.lv = s.lv
  inputs : t.inputs = s.inputs
  cycle : t.cycle = s.cycle

/-- What no LV operation writes (R120): the FS's registers, the slots, the build, the stimulus. -/
structure LvLeaves (s t : State) : Prop where
  cfg : t.cfg = s.cfg
  fs : t.fs = s.fs
  bytes : SameBytes s t
  inputs : t.inputs = s.inputs
  cycle : t.cycle = s.cycle

/-! ## Runs -/

/-- The run over a stimulus sequence, one word an edge, stopping at the first stop. -/
def feed : List StimWord → State → Host.Outcome State Fault Refusal
  | [], s => .next s
  | w :: ws, s =>
    match edge w s with
    | .next t => feed ws t
    | .fault f => .fault f
    | .refused r => .refused r

/-- The states after each edge of a run. -/
def statesAfter : List StimWord → State → List State
  | [], _ => []
  | w :: ws, s =>
    match edge w s with
    | .next t => t :: statesAfter ws t
    | .fault _ => []
    | .refused _ => []

/-- The events of a run in order: kind and generation (R200). -/
def eventLog (ws : List StimWord) (s : State) : List (EvKind × Nat) :=
  (statesAfter ws s).filterMap fun t => if t.fs.evValid then some (t.fs.evKind, t.fs.evGen) else none

/-- The answers of a run's reads in order: hit or miss (R168). -/
def answerLog (ws : List StimWord) (s : State) : List Bool :=
  (statesAfter ws s).filterMap fun t => if t.lv.rdDone then some t.lv.rdHit else none

/-- A cycle with neither reset nor transport error. -/
def quiet (w : StimWord) : Bool := !swRst w && !swErr w

/-- The bytes that a quiet stimulus sequence presents, in order. -/
def bytesOf (ws : List StimWord) : List Byte :=
  ws.filterMap fun w => if swValid w then some (swData w) else none

/-- "The FS starts clean": `fs_state = SEEK` and `midx = 0` (spec/40_frame_sync.md, section 7). -/
def startsClean (s : State) : Prop := s.fs.state = .seek ∧ s.fs.midx = 0

/-- The marker cannot overlap a failed partial match: the condition of R138. -/
def PlainMarker (m : Magic) : Prop := m.m1 ≠ m.m0 ∧ m.m2 ≠ m.m0

/-- The marker occurs in `x` as four consecutive bytes (R138). -/
def MarkerIn (m : Magic) (x : List Byte) : Prop := m.bytes <:+: x

/-- `first(x) + 4 = |x|`: the first occurrence of the marker in `x` is its last four bytes (R138). -/
def FirstMarkerEnds (m : Magic) (x : List Byte) : Prop := m.bytes <:+ x ∧ ¬ MarkerIn m x.dropLast

/-- An edge that leaves `t` published a frame: the FS reported FRAME_OK (R127, R200). -/
def publishedOn (t : State) : Bool := t.fs.evValid && t.fs.evKind == .frameOk

/-! ## Monitor -/

/-- What an observer of the stimulus knows: the payload bytes of the open message and the payloads
accepted since reset, newest first. -/
structure Monitor where
  openBytes : List Byte
  accepted : List (List Byte)
  deriving DecidableEq, Repr

def Monitor.start : Monitor := { openBytes := [], accepted := [] }

/-- The monitor after one edge: it notes payload bytes as they pass, and at the checksum byte it
accepts the message if that byte is `sum8` of them (R18, R90). -/
def Monitor.next (w : StimWord) (s : State) (m : Monitor) : Monitor :=
  match fsInstr w s.fs.state with
  | .fsReset => Monitor.start
  | .fsPayloadByte b => { m with openBytes := m.openBytes ++ [b] }
  | .fsChecksumByte b =>
    { openBytes := [], accepted := if b = sum8 m.openBytes then m.openBytes :: m.accepted else m.accepted }
  | .fsIdleP => m
  | .fsIdleC => m
  | .fsTerr => { m with openBytes := [] }
  | .fsIll => { m with openBytes := [] }
  | .fsIdleS => { m with openBytes := [] }
  | .fsSeekByte _ => { m with openBytes := [] }
  | .lvReset => m
  | .lvIdle => m
  | .lvTryread => m
  | .lvPublish => m
  | .lvPublishTryread => m

/-- The monitor at the end of a run. -/
def monitorAfter : List StimWord → State → Monitor → Monitor
  | [], _, m => m
  | w :: ws, s, m =>
    match edge w s with
    | .next t => monitorAfter ws t (m.next w s)
    | .fault _ => m
    | .refused _ => m

/-- The publishes counted without wrap since reset, `V`, and `V` at the reader's last hit, `C` (R170). -/
structure Cursor where
  publishes : Nat
  atLastHit : Nat
  deriving DecidableEq, Repr

/-- The counts after one edge that led to `t`: a hit sees the state before the publish (R71). -/
def Cursor.next (w : StimWord) (t : State) (n : Cursor) : Cursor :=
  if swRst w then { publishes := 0, atLastHit := 0 }
  else { publishes := if publishedOn t then n.publishes + 1 else n.publishes
         atLastHit := if t.lv.rdHit then n.publishes else n.atLastHit }

/-- The counts at the end of a run. -/
def cursorAfter : List StimWord → State → Cursor → Cursor
  | [], _, n => n
  | w :: ws, s, n =>
    match edge w s with
    | .next t => cursorAfter ws t (n.next w t)
    | .fault _ => n
    | .refused _ => n

/-! ## What a port can never show -/

/-- `s` and `t` agree on everything but slot bytes that R63 calls unobservable. -/
structure AgreeOnShown (s t : State) : Prop where
  cfg : s.cfg = t.cfg
  fs : s.fs = t.fs
  lv : s.lv = t.lv
  back : ∀ k < bytesTaken s, slotByte s s.lv.wIdx k = slotByte t s.lv.wIdx k
  middle : s.lv.fresh = true → slotFrame s s.lv.mIdx = slotFrame t s.lv.mIdx
  reader : s.lv.rSeen = true → slotFrame s s.lv.rIdx = slotFrame t s.lv.rIdx

/-- `s` with every generation number set to zero (R172). -/
def forgetGen (s : State) : State :=
  { s with fs := { s.fs with evGen := 0 }, lv := { s.lv with gen := 0, rGen := 0 } }

/-! ## Boundedness -/

/-- How many bytes of a message the sequencer position has behind it (R36, R90). -/
def position (s : State) : Nat :=
  match s.fs.state with
  | .seek => s.fs.midx.toNat
  | .payload => 4 + s.fs.pcnt
  | .checksum => 4 + s.cfg.plen
  | .illegal => 0

end Sys2Proof.Machine
end

