-- ==== Sys2Proof/Certificates/Slice0/Obligations.lean ====
section
/-! DEFINITION. The statements for the provers: what the numbered rules of spec/ say the block does.
Each holds for every build (`State.cfg`) and, where it speaks of an edge or a run, for every
stimulus. -/

open Sys2Proof Sys2Proof.Machine

/-! ## Encodings -/

/-- Words written out from R94 and R95 decode to the operations they stand for. -/
def Obligations.SpecWordsDecode : Prop :=
  decode [0b10000, 0x00] = .ok .fsReset ∧ decode [0b11111, 0x00] = .ok .fsReset ∧
  decode [0b01110, 0x15] = .ok .fsTerr ∧ decode [0b00111, 0x53] = .ok .fsIll ∧
  decode [0b00001, 0xAA] = .ok .fsIdleP ∧ decode [0b00100, 0x53] = .ok (.fsSeekByte 0x53) ∧
  decode [0b00110, 0x15] = .ok (.fsChecksumByte 0x15) ∧ decode [0b101] = .ok .lvReset ∧
  decode [0b011] = .ok .lvPublishTryread ∧ decode [0b100000, 0x00] = .error .bitsAboveKey ∧
  decode [] = .error .badLength

/-- Decoding the image of any operation gives the operation back, its byte at every value; and a byte
sequence that decodes is the image of its operation but for bits that the operation does not read:
as long, its key byte matching the row of R94 or R95 under the row's mask, its data byte the operand
where there is one. -/
def Obligations.DecodeAndEncodeAgree : Prop :=
  (∀ i : Instr, decode (encode i) = .ok i) ∧
  ∀ (bs : List Byte) (i : Instr), decode bs = .ok i →
    (encode i).length = bs.length ∧
    (∃ r ∈ opRows, r.mnemonic = i.mnemonic ∧ r.fsk = i.isFs ∧ r.value = i.keyByte ∧
      ∃ k, bs[0]? = some k ∧ k &&& r.mask = r.value) ∧
    ∀ b : Byte, i = .fsSeekByte b ∨ i = .fsPayloadByte b ∨ i = .fsChecksumByte b → bs[1]? = some b

/-- The five fields of R92 are the whole stimulus word, and each is read where R92 puts it. -/
def Obligations.StimulusFieldsAreTheWord : Prop :=
  (∀ w : StimWord, mkStim (swRst w) (swErr w) (swValid w) (swRd w) (swData w) = w) ∧
  ∀ (rst err valid rd : Bool) (d : Byte),
    let w := mkStim rst err valid rd d
    swRst w = rst ∧ swErr w = err ∧ swValid w = valid ∧ swRd w = rd ∧ swData w = d

/-- The rows of R94 partition the 32 values of `FSK` and those of R95 the 8 values of `LVK`, and the
decoders give the operation of the row that matches. -/
def Obligations.OperationMapsPartitionTheKeys : Prop :=
  (∀ (k : FsKey) (b : Byte), ∃ r, rowsMatching true (k.setWidth 8) = [r] ∧
    (decodeFs k b).mnemonic = r.mnemonic ∧ (decodeFs k b).isFs = true) ∧
  ∀ k : LvKey, ∃ r, rowsMatching false (k.setWidth 8) = [r] ∧
    (decodeLv k).mnemonic = r.mnemonic ∧ (decodeLv k).isFs = false

/-- The pair of operations an edge selects is one FS and one LV operation, resets together, and
carries the publish strobe exactly on a checksum-byte cycle whose checksum matches (R93). -/
def Obligations.EdgeSelectsWellFormedPair : Prop :=
  ∀ (w : StimWord) (s : State), (edgeOps w s).wellFormed = true ∧
    ((edgeOps w s).lv.hasPublish = true ↔
      swRst w = false ∧ swErr w = false ∧ swValid w = true ∧ s.fs.state = .checksum ∧
        swData w = s.fs.sum)

/-- `in_data` is ignored when `in_valid = 0` or `in_err = 1`, `in_valid` when `in_err = 1`, and every
other input during reset (R99, R210). -/
def Obligations.DontCareInputsChangeNothing : Prop :=
  ∀ (w v : StimWord) (s : State), swRst w = swRst v →
    (swRst w = false → swErr w = swErr v ∧ swRd w = swRd v) →
    (swRst w = false → swErr w = false → swValid w = swValid v) →
    (swRst w = false → swErr w = false → swValid w = true → swData w = swData v) →
    edge w s = edge v s

/-- The stimulus words of the assembler's lines, by their fields (R101). -/
def Obligations.LinesSetTheirFields : Prop :=
  lineWord .idle = 0x000 ∧ lineWord .err = 0x400 ∧ lineWord .rst = 0x800 ∧ lineWord .read = 0x100 ∧
  (∀ b : Byte, (lineWord (.byte b)).toNat = 0x200 + b.toNat ∧
    lineWord (.byte b) = mkStim false false true false b) ∧
  (∀ b : Byte, (lineWord (.errByte b)).toNat = 0x600 + b.toNat ∧
    lineWord (.errByte b) = mkStim false true true false b) ∧
  ∀ w : StimWord, withRead w = mkStim (swRst w) (swErr w) (swValid w) true (swData w)

/-- `MSG` and `BADMSG` are `MAGIC`, `PAY`, then `CSUM` or `BADCSUM` (R102), in any place of a source
text. -/
def Obligations.MessagePseudoExpands : Prop :=
  ∀ (c : Config) (last : Option (List Byte)) (p : List Byte) (d : Byte) (rest : List SourceRow),
    p.length = c.plen → d ≠ 0 →
    assemble c last (⟨.msg p, false⟩ :: rest) =
      assemble c last (⟨.magic, false⟩ :: ⟨.pay p, false⟩ :: ⟨.csum, false⟩ :: rest) ∧
    assemble c last (⟨.badMsg d p, false⟩ :: rest) =
      assemble c last (⟨.magic, false⟩ :: ⟨.pay p, false⟩ :: ⟨.badCsum d, false⟩ :: rest)

/-- A message on the wire (R90): PLEN + 5 bytes, the marker, then channel `ch` of LED `i` at payload
byte `3·i + ch`, then the wrapping sum. -/
def Obligations.MessageLayoutOnTheWire : Prop :=
  ∀ (c : Config) (p : List Byte), p.length = c.plen →
    (message c p).length = c.plen + 5 ∧
    (message c p).take 4 = [c.magic.m0, c.magic.m1, c.magic.m2, c.magic.m3] ∧
    (∀ (i : Nat) (ch : Channel), i < c.nLeds →
      ∃ b, ledChannel p i ch = some b ∧ (message c p)[4 + (3 * i + ch.offset)]? = some b) ∧
    (message c p)[c.plen + 4]? = some (sum8 p)

/-- `sum8(p) = (Σ p) mod 256` (R131). -/
def Obligations.ChecksumIsSumModulo256 : Prop :=
  ∀ p : List Byte, (sum8 p).toNat = (p.map BitVec.toNat).sum % 256

/-! ## The step -/

/-- A step samples the first stimulus word placed, or the free one where none is, and runs both
operations that the word's images decode to, each on the state before the edge; the FS's registers
and slots come from the one, the LV's registers from the other (R120). Around them the step only
takes the word and counts the edge (log entry 1). -/
def Obligations.StepRunsDecodedOperations : Prop :=
  ∀ (s pre : State) (w : StimWord),
    (s.inputs = w :: pre.inputs ∧ pre = { s with inputs := pre.inputs, cycle := s.cycle + 1 } ∨
      s.inputs = [] ∧ w = Config.freeStimulus s.cycle ∧ pre = { s with cycle := s.cycle + 1 }) →
    ∃ f l : Instr,
      decode (fsImage w s.fs.state) = .ok f ∧ decode (lvImage w (publishStrobe f s)) = .ok l ∧
      (∀ sf sl, exec f pre = .next sf → exec l pre = .next sl →
        step s = .next { sf with lv := sl.lv }) ∧
      (∀ r, exec f pre = .fault r → step s = .fault r)

/-- Running the FS operation and then the LV operation on its result is the same edge: the LV reads
nothing that the FS writes (R120). -/
def Obligations.EdgeIsFsThenLv : Prop :=
  ∀ (w : StimWord) (s : State),
    edge w s = match exec (edgeOps w s).fs s with
      | .next t => exec (edgeOps w s).lv t
      | .fault r => .fault r
      | .refused r => .refused r

/-- The FS operations and the LV operations write disjoint registers; no operation writes the build
or the stimulus, and the only slot byte an operation changes is `(w_idx, pcnt)` (R60, R120). -/
def Obligations.HalvesWriteDisjointRegisters : Prop :=
  ∀ (i : Instr) (s t : State), exec i s = .next t →
    (i.isFs = true → FsLeaves s t ∧
      ∀ j k, slotRead t j k ≠ slotRead s j k →
        (∃ b, i = .fsPayloadByte b) ∧ j = s.lv.wIdx ∧ k = s.fs.pcnt) ∧
    (i.isFs = false → LvLeaves s t)

/-! ## The frame synchronizer's operations -/

/-- The idle operations, of keys `0b00000` to `0b00010`, clear `ev_valid` and change nothing else (R121
to R123). -/
def Obligations.IdleKeepsEverythingButEventStrobe : Prop :=
  (∀ b : Byte, decodeFs 0b00000 b = .fsIdleS ∧ decodeFs 0b00001 b = .fsIdleP ∧
    decodeFs 0b00010 b = .fsIdleC) ∧
  ∀ s : State, ∀ i ∈ [Instr.fsIdleS, .fsIdleP, .fsIdleC], ∃ t, exec i s = .next t ∧
    FsLeaves s t ∧ SameBytes s t ∧ t.fs.state = s.fs.state ∧ t.fs.midx = s.fs.midx ∧
    t.fs.pcnt = s.fs.pcnt ∧ t.fs.sum = s.fs.sum ∧ t.fs.evValid = false ∧
    t.fs.evKind = s.fs.evKind ∧ t.fs.evGen = s.fs.evGen ∧ publishStrobe i s = false

/-- FS.SEEK_BYTE (R124), key `0b00100`, in every state and for every byte. -/
def Obligations.SeekByteResult : Prop :=
  (∀ b : Byte, decodeFs 0b00100 b = .fsSeekByte b) ∧
  ∀ (s : State) (b : Byte), ∃ t, exec (.fsSeekByte b) s = .next t ∧
    FsLeaves s t ∧ SameBytes s t ∧ t.fs.evValid = false ∧ t.fs.evKind = s.fs.evKind ∧
    t.fs.evGen = s.fs.evGen ∧ publishStrobe (.fsSeekByte b) s = false ∧
    (s.cfg.magic.bytes[s.fs.midx.toNat]? = some b → s.fs.midx.toNat = 3 →
      t.fs.state = .payload ∧ t.fs.midx = 0 ∧ t.fs.pcnt = 0 ∧ t.fs.sum = 0) ∧
    (s.cfg.magic.bytes[s.fs.midx.toNat]? = some b → s.fs.midx.toNat ≠ 3 →
      t.fs.midx.toNat = s.fs.midx.toNat + 1 ∧ t.fs.state = s.fs.state ∧ t.fs.pcnt = s.fs.pcnt ∧
      t.fs.sum = s.fs.sum) ∧
    (s.cfg.magic.bytes[s.fs.midx.toNat]? ≠ some b →
      t.fs.midx = (if s.cfg.magic.bytes[0]? = some b then 1 else 0) ∧ t.fs.state = s.fs.state ∧
      t.fs.pcnt = s.fs.pcnt ∧ t.fs.sum = s.fs.sum)

/-- The seek transition table of R125, for the default marker. -/
def Obligations.SeekTableForDefaultMarker : Prop :=
  ∀ (s : State) (b : Byte), s.cfg.magic = Magic.sglp → s.fs.state = .seek →
    ∃ t, exec (.fsSeekByte b) s = .next t ∧
      (t.fs.state, t.fs.midx.toNat) =
        match s.fs.midx.toNat, b.toNat with
        | 0, 0x53 => (FsState.seek, 1)
        | 1, 0x53 => (.seek, 1)
        | 1, 0x47 => (.seek, 2)
        | 2, 0x53 => (.seek, 1)
        | 2, 0x4C => (.seek, 3)
        | 3, 0x53 => (.seek, 1)
        | 3, 0x50 => (.payload, 0)
        | _, _ => (.seek, 0)

/-- FS.PAYLOAD_BYTE (R126), key `0b00101`: the byte is stored at `(w_idx, pcnt)` and nowhere else,
summed, counted. -/
def Obligations.PayloadByteResult : Prop :=
  (∀ b : Byte, decodeFs 0b00101 b = .fsPayloadByte b) ∧
  ∀ (s : State) (b : Byte), s.lv.wIdx.toNat < 3 → s.fs.pcnt < s.cfg.plen →
    ∃ t, exec (.fsPayloadByte b) s = .next t ∧ FsLeaves s t ∧
      (t.fs.sum.toNat = (s.fs.sum.toNat + b.toNat) % 256) ∧ t.fs.midx = s.fs.midx ∧
      (s.fs.pcnt = s.cfg.plen - 1 → t.fs.state = .checksum ∧ t.fs.pcnt = 0) ∧
      (s.fs.pcnt ≠ s.cfg.plen - 1 → t.fs.state = s.fs.state ∧ t.fs.pcnt = s.fs.pcnt + 1) ∧
      t.fs.evValid = false ∧ t.fs.evKind = s.fs.evKind ∧ t.fs.evGen = s.fs.evGen ∧
      publishStrobe (.fsPayloadByte b) s = false ∧
      (∃ a, slotAddr s.cfg s.lv.wIdx s.fs.pcnt = some a) ∧
      (∀ a, slotAddr s.cfg s.lv.wIdx s.fs.pcnt = some a →
        Memory.read t.slots a = some b ∧ ∀ a' ≠ a, Memory.read t.slots a' = Memory.read s.slots a') ∧
      slotRead t s.lv.wIdx s.fs.pcnt = some b ∧
      ∀ j k, (j, k) ≠ (s.lv.wIdx, s.fs.pcnt) → slotRead t j k = slotRead s j k

/-- Where `(w_idx, pcnt)` is no byte of the slot store, FS.PAYLOAD_BYTE stops (the model's choice, log
entry 7; R60 gives the store no such byte). -/
def Obligations.PayloadByteOutsideStoreStops : Prop :=
  ∀ (s : State) (b : Byte), (3 ≤ s.lv.wIdx.toNat ∨ s.cfg.plen ≤ s.fs.pcnt) ↔
    exec (.fsPayloadByte b) s = .fault .slotOutsideStore

/-- FS.CHECKSUM_BYTE (R127), key `0b00110`; its publish strobe selects the LV operation that publishes
on the same edge. -/
def Obligations.ChecksumByteResult : Prop :=
  (∀ b : Byte, decodeFs 0b00110 b = .fsChecksumByte b) ∧
  ∀ (s : State) (b : Byte), ∃ t, exec (.fsChecksumByte b) s = .next t ∧
    FsLeaves s t ∧ SameBytes s t ∧ t.fs.state = .seek ∧ t.fs.midx = 0 ∧ t.fs.pcnt = 0 ∧
    t.fs.sum = 0 ∧ t.fs.evValid = true ∧
    (publishStrobe (.fsChecksumByte b) s = true ↔ b = s.fs.sum) ∧
    (b = s.fs.sum → t.fs.evKind = .frameOk ∧ t.fs.evGen = (s.lv.gen + 1) % 2 ^ s.cfg.genW) ∧
    (b ≠ s.fs.sum → t.fs.evKind = .checksumMismatch ∧ t.fs.evGen = s.lv.gen)

/-- FS.TERR (R128), every key `0b01xxx`: what an error changes, and nothing else. -/
def Obligations.TransportErrorResult : Prop :=
  (∀ (k : FsKey) (b : Byte), k &&& 0b11000 = 0b01000 → decodeFs k b = .fsTerr) ∧
  ∀ s : State, ∃ t, exec .fsTerr s = .next t ∧ FsLeaves s t ∧ SameBytes s t ∧
    t.fs = { state := .seek, midx := 0, pcnt := 0, sum := 0, evValid := true,
             evKind := .transportError, evGen := s.lv.gen } ∧
    publishStrobe .fsTerr s = false

/-- FS.ILL (R129), every key `0b00x11`. -/
def Obligations.IllegalStateRecovers : Prop :=
  (∀ (k : FsKey) (b : Byte), k &&& 0b11011 = 0b00011 → decodeFs k b = .fsIll) ∧
  ∀ s : State, ∃ t, exec .fsIll s = .next t ∧ FsLeaves s t ∧ SameBytes s t ∧
    t.fs = { state := .seek, midx := 0, pcnt := 0, sum := 0, evValid := false,
             evKind := s.fs.evKind, evGen := s.fs.evGen } ∧
    publishStrobe .fsIll s = false

/-! ## The cell's operations -/

/-- LV.IDLE (R164), key `0b000`. -/
def Obligations.CellIdleResult : Prop :=
  decodeLv 0b000 = .lvIdle ∧
  ∀ s : State, ∃ t, exec .lvIdle s = .next t ∧ LvLeaves s t ∧
    t.lv = { s.lv with rdDone := false, rdHit := false } ∧ rdFrame t = rdFrame s

/-- LV.TRYREAD (R163, R165), key `0b001`. -/
def Obligations.TryReadResult : Prop :=
  decodeLv 0b001 = .lvTryread ∧
  ∀ s : State, ∃ t, exec .lvTryread s = .next t ∧ LvLeaves s t ∧
    t.lv.rdDone = true ∧ t.lv.rdHit = s.lv.fresh ∧ t.lv.wIdx = s.lv.wIdx ∧
    t.lv.hasValue = s.lv.hasValue ∧ t.lv.gen = s.lv.gen ∧ t.lv.fresh = false ∧
    (s.lv.fresh = true → t.lv.rIdx = s.lv.mIdx ∧ t.lv.mIdx = s.lv.rIdx ∧ t.lv.rSeen = true ∧
      t.lv.rGen = s.lv.gen ∧ rdFrame t = slotFrame s s.lv.mIdx) ∧
    (s.lv.fresh = false → t.lv.rIdx = s.lv.rIdx ∧ t.lv.mIdx = s.lv.mIdx ∧
      t.lv.rSeen = s.lv.rSeen ∧ t.lv.rGen = s.lv.rGen ∧ rdFrame t = rdFrame s)

/-- LV.PUBLISH (R162, R166), key `0b010`. -/
def Obligations.PublishResult : Prop :=
  decodeLv 0b010 = .lvPublish ∧
  ∀ s : State, ∃ t, exec .lvPublish s = .next t ∧ LvLeaves s t ∧
    t.lv = { wIdx := s.lv.mIdx, mIdx := s.lv.wIdx, rIdx := s.lv.rIdx, hasValue := true,
             fresh := true, gen := (s.lv.gen + 1) % 2 ^ s.cfg.genW, rSeen := s.lv.rSeen,
             rGen := s.lv.rGen, rdDone := false, rdHit := false }

/-- LV.PUBLISH_TRYREAD (R167), key `0b011`: the read sees the state before the publish. -/
def Obligations.PublishTryReadResult : Prop :=
  decodeLv 0b011 = .lvPublishTryread ∧
  ∀ s : State, ∃ t, exec .lvPublishTryread s = .next t ∧ LvLeaves s t ∧
    t.lv.hasValue = true ∧ t.lv.fresh = true ∧ t.lv.gen = (s.lv.gen + 1) % 2 ^ s.cfg.genW ∧
    t.lv.rdDone = true ∧ t.lv.rdHit = s.lv.fresh ∧ t.lv.mIdx = s.lv.wIdx ∧
    (s.lv.fresh = true → t.lv.rIdx = s.lv.mIdx ∧ t.lv.wIdx = s.lv.rIdx ∧ t.lv.rSeen = true ∧
      t.lv.rGen = s.lv.gen ∧ rdFrame t = slotFrame s s.lv.mIdx) ∧
    (s.lv.fresh = false → t.lv.rIdx = s.lv.rIdx ∧ t.lv.wIdx = s.lv.mIdx ∧
      t.lv.rSeen = s.lv.rSeen ∧ t.lv.rGen = s.lv.rGen ∧ rdFrame t = rdFrame s)

/-- LV.PUBLISH_TRYREAD is `try_read()` followed by `publish()`, and in no state the other order: after
that order the new frame would no longer be fresh. The spec's own inference: R167, "The result equals
`try_read()` followed by `publish()`. It does not equal the other order", from R162 and R163. -/
def Obligations.SameCycleReadComesFirst : Prop :=
  (∀ s : State, exec .lvPublishTryread s =
    .next ((publish (tryRead s).1).answerRead (tryRead s).2)) ∧
  ∀ s : State, exec .lvPublishTryread s ≠
    .next ((tryRead (publish s)).1.answerRead (tryRead (publish s)).2)

/-! ## Reset -/

/-- FS.RESET and LV.RESET (R230), every key with `rst = 1`, selected together by `SW[11]` whatever else
the stimulus word holds: every register takes its value of R45; slots are not written. -/
def Obligations.ResetOperationsResult : Prop :=
  (∀ (k : FsKey) (b : Byte), k &&& 0b10000 = 0b10000 → decodeFs k b = .fsReset) ∧
  (∀ k : LvKey, k &&& 0b100 = 0b100 → decodeLv k = .lvReset) ∧
  (∀ (w : StimWord) (s : State), swRst w = true → edgeOps w s = { fs := .fsReset, lv := .lvReset }) ∧
  ∀ s : State, (∃ t, exec .fsReset s = .next t ∧ FsLeaves s t ∧ SameBytes s t ∧
      publishStrobe .fsReset s = false ∧
      t.fs = { state := .seek, midx := 0, pcnt := 0, sum := 0, evValid := false,
               evKind := .frameOk, evGen := 0 }) ∧
    ∃ t, exec .lvReset s = .next t ∧ LvLeaves s t ∧
      t.lv = { wIdx := 0, mIdx := 1, rIdx := 2, hasValue := false, fresh := false, gen := 0,
               rSeen := false, rGen := 0, rdDone := false, rdHit := false }

/-- One edge with `rst = 1` reaches the full reset state from any state, whatever the other inputs
(R230, R231): the state right after reset of this build, but for the slots, which survive, and the
stimulus still to come. -/
def Obligations.ResetEdgeFromAnyState : Prop :=
  ∀ (w : StimWord) (s : State), swRst w = true → ∃ t, edge w s = .next t ∧
    t = { State.resetOf s.cfg with slots := s.slots, inputs := s.inputs, cycle := s.cycle } ∧
    rdFrame t = s.cfg.fallback ∧ t.ports.rdHas = false ∧ t.ports.rdGen = 0 ∧
    t.ports.rdDone = false ∧ t.ports.rdHit = false ∧ t.ports.evValid = false

/-- Holding reset longer keeps that state, and the first cycle after it is an ordinary one: a byte is
taken by FS.SEEK_BYTE, a read gets a miss (R231). -/
def Obligations.ResetHeldAndReleased : Prop :=
  ∀ (w : StimWord) (s t : State), swRst w = true → edge w s = .next t →
    (∀ ws : List StimWord, (∀ v ∈ ws, swRst v = true) → feed ws t = .next t) ∧
    (∀ v : StimWord, quiet v = true → swValid v = true →
      (edgeOps v t).fs = .fsSeekByte (swData v)) ∧
    ∀ v : StimWord, swRst v = false → swRd v = true →
      ∃ u, edge v t = .next u ∧ u.lv.rdDone = true ∧ u.lv.rdHit = false

/-- The state after reset of every allowed build meets the invariants (R40, R45). -/
def Obligations.InvariantsHoldAtReset : Prop :=
  ∀ c : Config, c.wellFormed = true →
    R40 (State.resetOf c) ∧ Typed (State.resetOf c) ∧ ShownBytesWritten (State.resetOf c) ∧
    R40 State.reset

/-! ## Invariants -/

/-- Every edge, and so every step, keeps the invariants (I-a) to (I-i) of R40. -/
def Obligations.EveryStepKeepsR40 : Prop :=
  ∀ s : State, R40 s →
    (∀ (w : StimWord) (t : State), edge w s = .next t → R40 t) ∧ ∀ t : State, step s = .next t → R40 t

/-- Every step keeps registers within their widths and codes, and the store canonical and within its
3·PLEN addresses. -/
def Obligations.EveryStepKeepsTyped : Prop :=
  ∀ s : State, Typed s →
    (∀ (w : StimWord) (t : State), edge w s = .next t → Typed t) ∧
    ∀ t : State, step s = .next t → Typed t

/-- Every step keeps it true that no byte a port shows, or may yet show, is one never written (R63,
R143). -/
def Obligations.EveryStepKeepsShownBytesWritten : Prop :=
  ∀ s : State, R40 s → ShownBytesWritten s →
    (∀ (w : StimWord) (t : State), edge w s = .next t → ShownBytesWritten t) ∧
    ∀ t : State, step s = .next t → ShownBytesWritten t

/-- From reset, every stimulus sequence runs to its end, and every state it reaches satisfies the
invariants of R40: the block cannot reach a stuck or halted state (R213). -/
def Obligations.EveryRunFromResetIsSafe : Prop :=
  ∀ (c : Config) (ws : List StimWord), c.wellFormed = true →
    ∃ t, feed ws (State.resetOf c) = .next t ∧ R40 t ∧ Typed t ∧ ShownBytesWritten t

/-- Under the invariants no stimulus stops the block (R213, R221). -/
def Obligations.NoStimulusStopsTheBlock : Prop :=
  ∀ (w : StimWord) (s : State), R40 s → ∃ t, edge w s = .next t

/-- The payload counter fits its register: below PLEN, hence below 2^PCNT_W, and no narrower
register but the one-bit one would do (R6, R26). -/
def Obligations.PayloadCounterFitsItsWidth : Prop :=
  ∀ s : State, R40 s → s.fs.pcnt < 2 ^ s.cfg.pcntW ∧
    ∀ n : Nat, 1 ≤ n → n < s.cfg.pcntW → 2 ^ n < s.cfg.plen

/-! ## The sequencer and the event port -/

/-- The table of R134: every transition of the sequencer position, row by row. -/
def Obligations.SequencerFollowsItsTable : Prop :=
  ∀ (w : StimWord) (s t : State), edge w s = .next t →
    (swRst w = true → t.fs.state = .seek ∧ t.fs.midx = 0) ∧
    (swRst w = false → swErr w = true → t.fs.state = .seek ∧ t.fs.midx = 0) ∧
    (quiet w = true → swValid w = false → s.fs.state ≠ .illegal →
      t.fs.state = s.fs.state ∧ t.fs.midx = s.fs.midx ∧ t.fs.pcnt = s.fs.pcnt) ∧
    (quiet w = true → swValid w = true → s.fs.state = .seek →
      (swData w = magicAt s.cfg.magic s.fs.midx → s.fs.midx.toNat < 3 →
        t.fs.state = .seek ∧ t.fs.midx.toNat = s.fs.midx.toNat + 1) ∧
      (swData w = magicAt s.cfg.magic s.fs.midx → s.fs.midx.toNat = 3 →
        t.fs.state = .payload ∧ t.fs.pcnt = 0 ∧ t.fs.sum = 0) ∧
      (swData w ≠ magicAt s.cfg.magic s.fs.midx → swData w = s.cfg.magic.m0 →
        t.fs.state = .seek ∧ t.fs.midx = 1) ∧
      (swData w ≠ magicAt s.cfg.magic s.fs.midx → swData w ≠ s.cfg.magic.m0 →
        t.fs.state = .seek ∧ t.fs.midx = 0)) ∧
    (quiet w = true → swValid w = true → s.fs.state = .payload →
      (s.fs.pcnt < s.cfg.plen - 1 → t.fs.state = .payload ∧ t.fs.pcnt = s.fs.pcnt + 1) ∧
      (s.fs.pcnt = s.cfg.plen - 1 → t.fs.state = .checksum)) ∧
    (quiet w = true → swValid w = true → s.fs.state = .checksum →
      t.fs.state = .seek ∧ t.fs.midx = 0 ∧ t.fs.evValid = true) ∧
    (quiet w = true → s.fs.state = .illegal → t.fs.state = .seek ∧ t.fs.midx = 0)

/-- An event is reported in exactly the cycles R200 says; `ev_kind` names its cause (R201), `ev_gen`
is `gen` after the edge, which an error leaves as it was; the FS starts clean again, and with no event
both registers keep their values. -/
def Obligations.EventPortReports : Prop :=
  (EvKind.frameOk.code = 0b00 ∧ EvKind.checksumMismatch.code = 0b01 ∧
    EvKind.transportError.code = 0b10 ∧ EvKind.reserved.code = 0b11) ∧
  ∀ (w : StimWord) (s t : State), edge w s = .next t →
    (t.fs.evValid = true ↔ swRst w = false ∧
      (swErr w = true ∨ swValid w = true ∧ s.fs.state = .checksum)) ∧
    (t.fs.evValid = true → t.fs.evGen = t.lv.gen ∧ startsClean t ∧
      (t.fs.evKind ≠ .frameOk → t.lv.gen = s.lv.gen) ∧
      (t.fs.evKind = .frameOk → t.lv.gen = (s.lv.gen + 1) % 2 ^ s.cfg.genW) ∧
      (t.fs.evKind = .transportError ↔ swErr w = true) ∧
      (t.fs.evKind = .frameOk ↔ swErr w = false ∧ swData w = s.fs.sum) ∧
      (t.fs.evKind = .checksumMismatch ↔ swErr w = false ∧ swData w ≠ s.fs.sum)) ∧
    (t.fs.evValid = false → swRst w = false → t.fs.evKind = s.fs.evKind ∧ t.fs.evGen = s.fs.evGen)

/-- Priority within a cycle (R210): reset, then the transport error, which drops the byte even when it
is the matching checksum, then the byte; the LV operation is `{pub, rd_req}`'s. -/
def Obligations.PriorityWithinACycle : Prop :=
  ∀ (w : StimWord) (s : State),
    (swRst w = true → edgeOps w s = { fs := .fsReset, lv := .lvReset }) ∧
    (swRst w = false → swErr w = true →
      edgeOps w s = { fs := .fsTerr, lv := if swRd w then .lvTryread else .lvIdle } ∧
      ∃ t, edge w s = .next t ∧ t.lv.gen = s.lv.gen ∧ t.lv.hasValue = s.lv.hasValue ∧
        t.lv.wIdx = s.lv.wIdx ∧ SameBytes s t) ∧
    (quiet w = true → (edgeOps w s).fs =
      match s.fs.state, swValid w with
      | .seek, true => .fsSeekByte (swData w)
      | .seek, false => .fsIdleS
      | .payload, true => .fsPayloadByte (swData w)
      | .payload, false => .fsIdleP
      | .checksum, true => .fsChecksumByte (swData w)
      | .checksum, false => .fsIdleC
      | .illegal, _ => .fsIll) ∧
    (swRst w = false → (edgeOps w s).lv =
      match publishStrobe (edgeOps w s).fs s, swRd w with
      | false, false => .lvIdle
      | false, true => .lvTryread
      | true, false => .lvPublish
      | true, true => .lvPublishTryread)

/-- While the FS is in PAYLOAD or CHECKSUM no byte value changes its course (R137). -/
def Obligations.MarkerBytesInsideMessageArePlain : Prop :=
  ∀ (w v : StimWord) (s t u : State), s.fs.state = .payload ∨ s.fs.state = .checksum →
    quiet w = true → quiet v = true → swValid w = true → swValid v = true →
    edge w s = .next t → edge v s = .next u →
    t.fs.state = u.fs.state ∧ t.fs.midx = u.fs.midx ∧ t.fs.pcnt = u.fs.pcnt

/-! ## The read port -/

/-- `rd_done` answers exactly the reads requested outside reset, `rd_hit` those that found a fresh
frame (R168). -/
def Obligations.ReadAnsweredNextCycle : Prop :=
  ∀ (w : StimWord) (s t : State), edge w s = .next t →
    (t.lv.rdDone = true ↔ swRd w = true ∧ swRst w = false) ∧
    (t.lv.rdHit = true ↔ swRd w = true ∧ swRst w = false ∧ s.lv.fresh = true)

/-- The read port (R175): `rd_frame` is the held frame once the reader has one, else `FALLBACK`;
`rd_has` and `rd_gen` are their registers. It changes only on an edge with a hit or at reset: no edge
writes the reader's slot. -/
def Obligations.ReadPortShowsHeldFrame : Prop :=
  (∀ s : State, s.ports.rdHas = s.lv.rSeen ∧ s.ports.rdGen = s.lv.rGen ∧
    (s.lv.rSeen = true → s.ports.rdFrame = slotFrame s s.lv.rIdx) ∧
    (s.lv.rSeen = false → s.ports.rdFrame = s.cfg.fallback)) ∧
  ∀ (w : StimWord) (s t : State), R40 s → edge w s = .next t →
    (∀ k, slotRead t s.lv.rIdx k = slotRead s s.lv.rIdx k) ∧
    (swRst w = false → t.lv.rdHit = false → t.ports.rdFrame = s.ports.rdFrame ∧
      t.ports.rdHas = s.ports.rdHas ∧ t.ports.rdGen = s.ports.rdGen)

/-- Byte `k` of the shown frame is in lanes `[8k+7 : 8k]` of `rd_frame` (R64). -/
def Obligations.FrameByteInItsLane : Prop :=
  ∀ (s : State) (k : Nat), s.cfg.wellFormed = true → k < s.cfg.plen →
    (rdFrame s)[k]? = some ((rdFrameBus s).extractLsb' (8 * k) 8)

/-! ## Whole messages -/

/-- Round trip (R136): from a clean start, a valid message gives exactly one event, FRAME_OK, on the
edge of its last byte, and publishes exactly its payload; reads and idle cycles may stand between
its bytes. -/
def Obligations.MessageRoundTrip : Prop :=
  ∀ (s : State) (p : List Byte) (ws : List StimWord), R40 s → startsClean s →
    p.length = s.cfg.plen → (∀ w ∈ ws, quiet w = true) → bytesOf ws = message s.cfg p →
    (∃ t, feed ws s = .next t ∧ startsClean t ∧ latestFrame t = some p) ∧
    eventLog ws s = [(.frameOk, (s.lv.gen + 1) % 2 ^ s.cfg.genW)] ∧
    ∀ us vs, ws = us ++ vs → bytesOf vs ≠ [] → eventLog us s = []

/-- Checksum sensitivity (R132): one bit flipped in a payload byte or in the checksum byte gives a
CHECKSUM_MISMATCH and publishes nothing. -/
def Obligations.OneFlippedBitIsCaught : Prop :=
  ∀ (s : State) (p q : List Byte) (k : Byte) (ws : List StimWord) (i : Nat), i < 8 → R40 s →
    startsClean s → p.length = s.cfg.plen →
    ((∃ j x, p[j]? = some x ∧ q = p.set j (x ^^^ BitVec.twoPow 8 i) ∧ k = sum8 p) ∨
      (q = p ∧ k = sum8 p ^^^ BitVec.twoPow 8 i)) →
    (∀ w ∈ ws, quiet w = true) → bytesOf ws = messageWith s.cfg q k →
    eventLog ws s = [(.checksumMismatch, s.lv.gen)] ∧
    ∃ t, feed ws s = .next t ∧ startsClean t ∧ t.lv.gen = s.lv.gen ∧
      t.lv.hasValue = s.lv.hasValue ∧ latestFrame t = latestFrame s

/-- What the checksum does not catch (R133): any payload of the same sum passes and is published, so
bytes may be moved about, or one raised by what another is lowered by. -/
def Obligations.SameSumPassesTheChecksum : Prop :=
  (∀ (s : State) (p q : List Byte) (ws : List StimWord), R40 s → startsClean s →
    q.length = s.cfg.plen → sum8 q = sum8 p → (∀ w ∈ ws, quiet w = true) →
    bytesOf ws = messageWith s.cfg q (sum8 p) →
    eventLog ws s = [(.frameOk, (s.lv.gen + 1) % 2 ^ s.cfg.genW)] ∧
    ∃ t, feed ws s = .next t ∧ latestFrame t = some q) ∧
  (∀ p q : List Byte, q.Perm p → sum8 q = sum8 p) ∧
  ∀ (p : List Byte) (i j : Nat) (x y d : Byte), i ≠ j → p[i]? = some x → p[j]? = some y →
    sum8 ((p.set i (x + d)).set j (y - d)) = sum8 p

/-- Seeking (R138): from a clean start, with a marker that cannot overlap a failed match, the FS is
still in SEEK as long as the marker has not occurred, with no event, and is in PAYLOAD at the edge of
the last byte of its first occurrence. -/
def Obligations.SeekStopsAtFirstMarker : Prop :=
  ∀ (s : State) (ws : List StimWord), startsClean s → PlainMarker s.cfg.magic →
    (∀ w ∈ ws, quiet w = true) →
    (¬ MarkerIn s.cfg.magic (bytesOf ws) →
      eventLog ws s = [] ∧ ∃ t, feed ws s = .next t ∧ t.fs.state = .seek) ∧
    ∀ (w : StimWord), quiet w = true → swValid w = true →
      FirstMarkerEnds s.cfg.magic (bytesOf (ws ++ [w])) →
      (∃ t, feed ws s = .next t ∧ t.fs.state = .seek) ∧
      ∃ u, feed (ws ++ [w]) s = .next u ∧ u.fs.state = .payload ∧ u.fs.pcnt = 0 ∧ u.fs.sum = 0

/-- Resync after garbage (R140): bytes before a message's marker, in which the marker does not occur
earlier, are discarded without any event, and the message is then treated as from a clean start. -/
def Obligations.ResyncAfterGarbage : Prop :=
  ∀ (s : State) (g p : List Byte) (k : Byte) (ws : List StimWord), R40 s → startsClean s →
    PlainMarker s.cfg.magic → p.length = s.cfg.plen →
    FirstMarkerEnds s.cfg.magic (g ++ s.cfg.magic.bytes) → (∀ w ∈ ws, quiet w = true) →
    bytesOf ws = g ++ messageWith s.cfg p k →
    (∀ us vs, ws = us ++ vs → bytesOf vs ≠ [] → eventLog us s = []) ∧
    ∃ t, feed ws s = .next t ∧ startsClean t ∧
      if k = sum8 p then
        eventLog ws s = [(.frameOk, (s.lv.gen + 1) % 2 ^ s.cfg.genW)] ∧ latestFrame t = some p
      else
        eventLog ws s = [(.checksumMismatch, s.lv.gen)] ∧ latestFrame t = latestFrame s

/-- The overlapping-marker limitation (R141): the source's non-sliding restart misses this marker. -/
def Obligations.OverlappingMarkerIsMissed : Prop :=
  ∀ s : State, s.cfg.magic = { m0 := 0x41, m1 := 0x41, m2 := 0x42, m3 := 0x43 } → startsClean s →
    let ws := byteWords [0x41, 0x41, 0x41, 0x42, 0x43]
    (statesAfter ws s).map (fun t => (t.fs.state, t.fs.midx.toNat)) =
      [(.seek, 1), (.seek, 2), (.seek, 1), (.seek, 0), (.seek, 0)] ∧
    MarkerIn s.cfg.magic (bytesOf ws)

/-- A transport error inside a message (R142): one event, nothing published, the cell untouched; what
follows is decoded from a clean start. -/
def Obligations.TransportErrorDropsTheMessage : Prop :=
  ∀ (s : State) (w : StimWord), R40 s → s.fs.state = .payload ∨ s.fs.state = .checksum →
    swRst w = false → swErr w = true →
    (∃ t, edge w s = .next t ∧ startsClean t ∧ t.fs.evValid = true ∧
      t.fs.evKind = .transportError ∧ t.lv.gen = s.lv.gen ∧ latestFrame t = latestFrame s) ∧
    ∀ (g p : List Byte) (ws : List StimWord), PlainMarker s.cfg.magic → p.length = s.cfg.plen →
      FirstMarkerEnds s.cfg.magic (g ++ s.cfg.magic.bytes) → (∀ v ∈ ws, quiet v = true) →
      bytesOf ws = g ++ message s.cfg p →
      eventLog (w :: ws) s =
        [(.transportError, s.lv.gen), (.frameOk, (s.lv.gen + 1) % 2 ^ s.cfg.genW)] ∧
      ∃ u, feed (w :: ws) s = .next u ∧ latestFrame u = some p

/-- From reset, the first frame can be published only on the edge of the (PLEN + 5)th byte or later,
and the port shows the fallback until then (R234). -/
def Obligations.NoFrameBeforeAWholeMessage : Prop :=
  ∀ (c : Config) (ws : List StimWord) (t : State), feed ws (State.resetOf c) = .next t →
    (ws.filter swValid).length < c.plen + 5 →
    t.lv.hasValue = false ∧ rdFrame t = c.fallback ∧ ∀ e ∈ eventLog ws (State.resetOf c), e.1 ≠ .frameOk

/-! ## The cell over time -/

/-- Visibility (R70): a read after a publish, with no publish and no hit on the edges between, hits and
returns that frame with the generation its event carried. -/
def Obligations.PublishedFrameIsReadNext : Prop :=
  ∀ (s t u v : State) (w r : StimWord) (ws : List StimWord), R40 s → edge w s = .next t →
    publishedOn t = true → feed ws t = .next u →
    (∀ x ∈ ws, swRst x = false) →
    (∀ x ∈ statesAfter ws t, publishedOn x = false ∧ x.lv.rdHit = false) →
    swRst r = false → swRd r = true → edge r u = .next v →
    v.lv.rdHit = true ∧ rdFrame v = slotFrame s s.lv.wIdx ∧ v.lv.rGen = t.fs.evGen

/-- Monotonic freshness (R72): between two successive hits the generation grows by the number of
publishes on the edges from the first hit's to the last before the second's, at least one. -/
def Obligations.HitsAreMonotonic : Prop :=
  ∀ (s t u v : State) (w r : StimWord) (ws : List StimWord), edge w s = .next t →
    t.lv.rdHit = true → feed ws t = .next u → (∀ x ∈ ws, swRst x = false) →
    (∀ x ∈ statesAfter ws t, x.lv.rdHit = false) → edge r u = .next v → v.lv.rdHit = true →
    let n := ((t :: statesAfter ws t).filter publishedOn).length
    1 ≤ n ∧ v.lv.rGen = (t.lv.rGen + n) % 2 ^ s.cfg.genW

/-- Latest wins (R73, R174): after any burst of messages with no read between, the first read returns
the last frame, every later one misses, and the port keeps showing that frame. -/
def Obligations.BurstCollapsesToNewest : Prop :=
  ∀ (s : State) (ps : List (List Byte)) (p : List Byte) (ws : List StimWord) (n : Nat), R40 s →
    startsClean s → (∀ q ∈ ps ++ [p], q.length = s.cfg.plen) →
    (∀ w ∈ ws, quiet w = true ∧ swRd w = false) →
    bytesOf ws = (ps ++ [p]).flatMap (message s.cfg) →
    ∃ t, feed ws s = .next t ∧
      answerLog (List.replicate (n + 1) (lineWord .read)) t = true :: List.replicate n false ∧
      ∀ u ∈ statesAfter (List.replicate (n + 1) (lineWord .read)) t, rdFrame u = p

/-- No tearing (R74): every frame shown while `rd_has = 1` is, byte for byte, the payload of one
message accepted since reset with a correct checksum, as an observer of the byte stream knows it. -/
def Obligations.ShownFrameIsAnAcceptedPayload : Prop :=
  ∀ (c : Config) (ws : List StimWord) (t : State), c.wellFormed = true →
    feed ws (State.resetOf c) = .next t → t.ports.rdHas = true →
    rdFrame t ∈ (monitorAfter ws (State.resetOf c) Monitor.start).accepted

/-- The fetch of a renderer tick (R176): a read in a cycle makes the port show the most recent payload
accepted before it, fresh or not, or the fallback if there is none. -/
def Obligations.FetchGetsLatestOrFallback : Prop :=
  ∀ (c : Config) (ws : List StimWord) (w : StimWord) (t u : State), c.wellFormed = true →
    feed ws (State.resetOf c) = .next t → swRst w = false → swRd w = true → edge w t = .next u →
    rdFrame u = (monitorAfter ws (State.resetOf c) Monitor.start).accepted.head?.getD c.fallback

/-- `fresh` is the reader's cursor (R170): with `V` publishes since reset and `C` the value `V` had at
the last hit, `fresh = 1` exactly when `V ≠ C`; emptiness is `V = 0`; `gen` is `V` and `r_gen` is `C`,
modulo 2^GEN_W (R32, R171, R172). -/
def Obligations.FreshIsTheReadersCursor : Prop :=
  ∀ (c : Config) (ws : List StimWord) (t : State), feed ws (State.resetOf c) = .next t →
    let n := cursorAfter ws (State.resetOf c) { publishes := 0, atLastHit := 0 }
    (t.lv.fresh = true ↔ n.publishes ≠ n.atLastHit) ∧
    (t.lv.hasValue = true ↔ n.publishes ≠ 0) ∧
    t.lv.gen = n.publishes % 2 ^ c.genW ∧ t.lv.rGen = n.atLastHit % 2 ^ c.genW

/-- No rule reads a generation to decide anything (R172): runs from states that differ only in
generation numbers differ only in generation numbers. -/
def Obligations.GenerationDecidesNothing : Prop :=
  ∀ (ws : List StimWord) (s s' t : State), forgetGen s = forgetGen s' → feed ws s = .next t →
    ∃ t', feed ws s' = .next t' ∧ forgetGen t = forgetGen t'

/-- The bytes R63 calls unobservable never reach a port: states that differ only in them show the same
on every port after every stimulus sequence. -/
def Obligations.HiddenSlotBytesNeverShow : Prop :=
  ∀ (ws : List StimWord) (s s' t : State), R40 s → AgreeOnShown s s' → feed ws s = .next t →
    ∃ t', feed ws s' = .next t' ∧ t.ports = t'.ports ∧ AgreeOnShown t t'

/-- The refinement (R186): every edge, mapped, is the transaction view's payload write and cell
operation of R185, `pbuf` after a publish or reset being some frame; hits agree and so does
`rd_frame`. -/
def Obligations.CellRefinesTransactionView : Prop :=
  ∀ (w : StimWord) (s t : State), R40 s → edge w s = .next t →
    (∃ junk : List Byte, junk.length = s.cfg.plen ∧
      let after := ((cellView s).fsOp (edgeOps w s).fs s.fs.pcnt).lvOp s.cfg junk (edgeOps w s).lv
      cellView t = after.1 ∧ t.lv.rdHit = after.2) ∧
    rdFrame t = (cellView t).rdFrame t.cfg
end

