-- ==== Sys2Proof/Laws/Decode.lean ====
section
/-! SUPPORT. Which operation a stimulus word selects, by its fields. -/

namespace Sys2Proof

/-- The FS operation by reset, error, state and byte present (R94, R210). -/
theorem fsInstr_eq (w : StimWord) (st : FsState) : fsInstr w st =
    if swRst w then .fsReset else if swErr w then .fsTerr else
      match st, swValid w with
      | .seek, true => .fsSeekByte (swData w)
      | .seek, false => .fsIdleS
      | .payload, true => .fsPayloadByte (swData w)
      | .payload, false => .fsIdleP
      | .checksum, true => .fsChecksumByte (swData w)
      | .checksum, false => .fsIdleC
      | .illegal, _ => .fsIll := by
  simp only [fsInstr, fsKey]
  generalize swRst w = a, swErr w = b, swValid w = c, swData w = d
  cases a <;> cases b <;> cases c <;> cases st <;> rfl

/-- The LV operation by reset, publish strobe and read request (R95). -/
theorem lvInstr_eq (w : StimWord) (pub : Bool) : lvInstr w pub =
    if swRst w then .lvReset else
      match pub, swRd w with
      | false, false => .lvIdle
      | false, true => .lvTryread
      | true, false => .lvPublish
      | true, true => .lvPublishTryread := by
  simp only [lvInstr, lvKey]
  generalize swRst w = a, swRd w = c
  cases a <;> cases pub <;> cases c <;> rfl

@[simp] theorem fsInstr_isFs (w : StimWord) (st : FsState) : (fsInstr w st).isFs = true := by
  rw [fsInstr_eq]
  split
  · rfl
  · split
    · rfl
    · split <;> rfl

@[simp] theorem lvInstr_isFs (w : StimWord) (pub : Bool) : (lvInstr w pub).isFs = false := by
  rw [lvInstr_eq]
  split
  · rfl
  · split <;> rfl

end Sys2Proof
end

