-- ==== Sys2Proof/Laws/Memory.lean ====
section
/-! SUPPORT. The slot store: a byte reads as what was last stored there, a store leaves every other
byte alone, and the canonical form is kept. -/

namespace Sys2Proof.Machine

theorem unlistedByte_eq (a : Nat) : unlistedByte a = none := rfl

/-- A byte that has just been stored reads as stored. -/
theorem read_write_same (m : Memory) (a : Nat) (v : Byte) :
    Memory.read (Memory.write m a v) a = some v := by
  induction m with
  | nil => simp [Memory.write, Memory.read]
  | cons x rest ih =>
    obtain ⟨k, w⟩ := x
    simp only [Memory.write]
    split
    · simp [Memory.read]
    · split
      · simp [Memory.read]
      · rename_i h
        simp [Memory.read, Ne.symm h, ih]

/-- A store leaves the bytes at all other addresses. -/
theorem read_write_other (m : Memory) {a a' : Nat} (v : Byte) (h : a' ≠ a) :
    Memory.read (Memory.write m a v) a' = Memory.read m a' := by
  induction m with
  | nil => simp [Memory.write, Memory.read, Ne.symm h]
  | cons x rest ih =>
    obtain ⟨k, w⟩ := x
    simp only [Memory.write]
    split
    · simp [Memory.read, Ne.symm h]
    · split
      · rename_i hk; subst hk
        simp [Memory.read, Ne.symm h]
      · simp [Memory.read, ih]

/-- The addresses listed after a store: those listed before and the one stored to. -/
theorem mem_write {m : Memory} {a : Nat} {v : Byte} {x : Host.Cell} (h : x ∈ Memory.write m a v) :
    x = (a, v) ∨ x ∈ m := by
  induction m with
  | nil => simpa [Memory.write] using h
  | cons y rest ih =>
    obtain ⟨k, w⟩ := y
    simp only [Memory.write] at h
    split at h
    · simpa using h
    · split at h
      · rcases List.mem_cons.1 h with h | h
        · exact .inl h
        · exact .inr (List.mem_cons_of_mem _ h)
      · rcases List.mem_cons.1 h with h | h
        · exact .inr (by simp [h])
        · exact (ih h).imp_right (List.mem_cons_of_mem _)

/-- A store keeps the canonical form. -/
theorem write_wf {m : Memory} (a : Nat) (v : Byte) (h : Memory.wf m) : Memory.wf (Memory.write m a v) := by
  refine ⟨?_, fun x _ => by simp [unlistedByte_eq]⟩
  have hs := h.1
  clear h
  induction m with
  | nil => simp [Memory.write]
  | cons y rest ih =>
    obtain ⟨k, w⟩ := y
    obtain ⟨hk, hr⟩ := List.pairwise_cons.1 hs
    simp only [Memory.write]
    split
    · rename_i hlt
      refine List.pairwise_cons.2 ⟨fun x hx => ?_, hs⟩
      rcases List.mem_cons.1 hx with rfl | hx
      · exact hlt
      · exact Nat.lt_trans hlt (hk x hx)
    · split
      · rename_i hnl heq; subst heq
        exact List.pairwise_cons.2 ⟨hk, hr⟩
      · rename_i hnl hne
        refine List.pairwise_cons.2 ⟨fun x hx => ?_, ih hr⟩
        rcases mem_write hx with rfl | hx
        · simp only; omega
        · exact hk x hx

/-! Slot addresses. -/

theorem slotAddr_eq_some {c : Config} {i : SlotIdx} {k a : Nat} :
    slotAddr c i k = some a ↔ i.toNat < 3 ∧ k < c.plen ∧ a = slotKey c i k := by
  unfold slotAddr
  split <;> simp_all [eq_comm]

theorem slotAddr_isSome {c : Config} {i : SlotIdx} {k : Nat} (hi : i.toNat < 3) (hk : k < c.plen) :
    slotAddr c i k = some (slotKey c i k) := slotAddr_eq_some.2 ⟨hi, hk, rfl⟩

/-- Two bytes of the store have one address only if they are one byte. -/
theorem slotKey_inj {c : Config} {i j : SlotIdx} {k l : Nat} (hk : k < c.plen) (hl : l < c.plen)
    (h : slotKey c i k = slotKey c j l) : i = j ∧ k = l := by
  unfold slotKey at h
  have hp : 0 < c.plen := by omega
  have hd : i.toNat = j.toNat := by
    have := congrArg (· / c.plen) h
    simpa [Nat.add_comm _ k, Nat.add_comm _ l, Nat.add_mul_div_right, hp, Nat.div_eq_of_lt, hk, hl] using this
  refine ⟨BitVec.eq_of_toNat_eq hd, ?_⟩
  rw [hd] at h; omega

/-- Every address of the store is below 3·PLEN (R60). -/
theorem slotKey_lt {c : Config} {i : SlotIdx} {k : Nat} (hi : i.toNat < 3) (hk : k < c.plen) :
    slotKey c i k < 3 * c.plen := by
  unfold slotKey
  have : i.toNat * c.plen ≤ 2 * c.plen := Nat.mul_le_mul_right _ (by omega)
  omega

/-! Slots. What a slot shows depends on the build and the store alone. -/

theorem slotRead_congr {s t : State} (hc : t.cfg = s.cfg) (hm : t.slots = s.slots) (i : SlotIdx) (k : Nat) :
    slotRead t i k = slotRead s i k := by simp [slotRead, hc, hm]

theorem slotByte_congr {s t : State} (hc : t.cfg = s.cfg) (hm : t.slots = s.slots) (i : SlotIdx) (k : Nat) :
    slotByte t i k = slotByte s i k := by simp [slotByte, slotRead, hc, hm]

theorem slotFrame_congr {s t : State} (hc : t.cfg = s.cfg) (hm : t.slots = s.slots) (i : SlotIdx) :
    slotFrame t i = slotFrame s i := by
  simp only [slotFrame, hc]
  exact List.map_congr_left fun k _ => slotByte_congr hc hm i k

@[simp] theorem slotFrame_length (s : State) (i : SlotIdx) : (slotFrame s i).length = s.cfg.plen := by
  simp [slotFrame]

theorem slotFrame_getElem (s : State) (i : SlotIdx) (k : Nat) (h : k < (slotFrame s i).length) :
    (slotFrame s i)[k] = slotByte s i k := by simp [slotFrame]

section Store

variable {s t : State} {i : SlotIdx} {k a : Nat} {b : Byte}

/-- After a store at `(i, k)` that byte reads as stored. -/
theorem slotRead_store_same (ha : slotAddr s.cfg i k = some a) (hc : t.cfg = s.cfg)
    (hm : t.slots = Memory.write s.slots a b) : slotRead t i k = some b := by
  simp [slotRead, hc, ha, hm, read_write_same]

/-- After a store at `(i, k)` every other byte of the store reads as before. -/
theorem slotRead_store_other (ha : slotAddr s.cfg i k = some a) (hc : t.cfg = s.cfg)
    (hm : t.slots = Memory.write s.slots a b) {j : SlotIdx} {l : Nat} (h : (j, l) ≠ (i, k)) :
    slotRead t j l = slotRead s j l := by
  obtain ⟨hi, hk, rfl⟩ := slotAddr_eq_some.1 ha
  simp only [slotRead, hc, hm]
  cases hx : slotAddr s.cfg j l with
  | none => rfl
  | some x =>
    obtain ⟨hj, hl, rfl⟩ := slotAddr_eq_some.1 hx
    refine read_write_other _ _ fun he => h ?_
    obtain ⟨h1, h2⟩ := slotKey_inj hl hk he
    rw [h1, h2]

theorem slotByte_store_same (ha : slotAddr s.cfg i k = some a) (hc : t.cfg = s.cfg)
    (hm : t.slots = Memory.write s.slots a b) : slotByte t i k = b := by
  simp [slotByte, slotRead_store_same ha hc hm]

theorem slotByte_store_other (ha : slotAddr s.cfg i k = some a) (hc : t.cfg = s.cfg)
    (hm : t.slots = Memory.write s.slots a b) {j : SlotIdx} {l : Nat} (h : (j, l) ≠ (i, k)) :
    slotByte t j l = slotByte s j l := by
  simp [slotByte, slotRead_store_other ha hc hm h, hc]

/-- A store changes the one byte of its own slot's frame. -/
theorem slotFrame_store_same (ha : slotAddr s.cfg i k = some a) (hc : t.cfg = s.cfg)
    (hm : t.slots = Memory.write s.slots a b) : slotFrame t i = (slotFrame s i).set k b := by
  apply List.ext_getElem
  · simp [hc]
  · intro n h1 h2
    rw [slotFrame_getElem, List.getElem_set, slotFrame_getElem]
    split
    · rename_i h; subst h; exact slotByte_store_same ha hc hm
    · rename_i h; exact slotByte_store_other ha hc hm (by simp [Ne.symm h])

/-- A store leaves the frames of the other slots. -/
theorem slotFrame_store_other (ha : slotAddr s.cfg i k = some a) (hc : t.cfg = s.cfg)
    (hm : t.slots = Memory.write s.slots a b) {j : SlotIdx} (h : j ≠ i) :
    slotFrame t j = slotFrame s j := by
  simp only [slotFrame, hc]
  exact List.map_congr_left fun l _ => slotByte_store_other ha hc hm (by simp [h])

/-! The same of the state an edge leaves: other registers written beside the store. -/

variable (f : FsRegs) (l : LvRegs)

theorem slotRead_after_same (ha : slotAddr s.cfg i k = some a) (b : Byte) :
    slotRead { s with fs := f, slots := Memory.write s.slots a b, lv := l } i k = some b :=
  slotRead_store_same (t := { s with fs := f, slots := Memory.write s.slots a b, lv := l }) ha rfl rfl

theorem slotRead_after_other (ha : slotAddr s.cfg i k = some a) (b : Byte) {j : SlotIdx} {n : Nat}
    (h : (j, n) ≠ (i, k)) :
    slotRead { s with fs := f, slots := Memory.write s.slots a b, lv := l } j n = slotRead s j n :=
  slotRead_store_other (t := { s with fs := f, slots := Memory.write s.slots a b, lv := l }) ha rfl rfl h

theorem slotFrame_after_same (ha : slotAddr s.cfg i k = some a) (b : Byte) :
    slotFrame { s with fs := f, slots := Memory.write s.slots a b, lv := l } i =
      (slotFrame s i).set k b :=
  slotFrame_store_same (t := { s with fs := f, slots := Memory.write s.slots a b, lv := l }) ha rfl rfl

theorem slotFrame_after_other (ha : slotAddr s.cfg i k = some a) (b : Byte) {j : SlotIdx}
    (h : j ≠ i) :
    slotFrame { s with fs := f, slots := Memory.write s.slots a b, lv := l } j = slotFrame s j :=
  slotFrame_store_other (t := { s with fs := f, slots := Memory.write s.slots a b, lv := l }) ha rfl rfl h

/-- Registers alone do not change what a slot shows. -/
theorem slotFrame_after_none (j : SlotIdx) :
    slotFrame { s with fs := f, slots := s.slots, lv := l } j = slotFrame s j :=
  slotFrame_congr (s := s) rfl rfl j

end Store

end Sys2Proof.Machine
end

