-- ==== Sys2Proof/Laws/State.lean ====
section
/-! SUPPORT. What each named update leaves in each field of the state: one lemma a field and update,
so that no proof unfolds a record update. -/

namespace Sys2Proof.Machine

variable (s : State)

/-! `noEvent` -/

@[simp] theorem noEvent_cfg : (s.noEvent).cfg = s.cfg := rfl
@[simp] theorem noEvent_fs : (s.noEvent).fs = { s.fs with evValid := false } := rfl
@[simp] theorem noEvent_lv : (s.noEvent).lv = s.lv := rfl
@[simp] theorem noEvent_slots : (s.noEvent).slots = s.slots := rfl
@[simp] theorem noEvent_inputs : (s.noEvent).inputs = s.inputs := rfl
@[simp] theorem noEvent_cycle : (s.noEvent).cycle = s.cycle := rfl

/-! `reportEvent` -/

@[simp] theorem reportEvent_cfg (k : EvKind) (g : Nat) : (s.reportEvent k g).cfg = s.cfg := rfl
@[simp] theorem reportEvent_fs (k : EvKind) (g : Nat) : (s.reportEvent k g).fs =
      { s.fs with evValid := true, evKind := k, evGen := g } := rfl
@[simp] theorem reportEvent_lv (k : EvKind) (g : Nat) : (s.reportEvent k g).lv = s.lv := rfl
@[simp] theorem reportEvent_slots (k : EvKind) (g : Nat) : (s.reportEvent k g).slots =
      s.slots := rfl
@[simp] theorem reportEvent_inputs (k : EvKind) (g : Nat) : (s.reportEvent k g).inputs =
      s.inputs := rfl
@[simp] theorem reportEvent_cycle (k : EvKind) (g : Nat) : (s.reportEvent k g).cycle =
      s.cycle := rfl

/-! `noAnswer` -/

@[simp] theorem noAnswer_cfg : (s.noAnswer).cfg = s.cfg := rfl
@[simp] theorem noAnswer_fs : (s.noAnswer).fs = s.fs := rfl
@[simp] theorem noAnswer_lv : (s.noAnswer).lv = { s.lv with rdDone := false, rdHit := false } := rfl
@[simp] theorem noAnswer_slots : (s.noAnswer).slots = s.slots := rfl
@[simp] theorem noAnswer_inputs : (s.noAnswer).inputs = s.inputs := rfl
@[simp] theorem noAnswer_cycle : (s.noAnswer).cycle = s.cycle := rfl

/-! `answerRead` -/

@[simp] theorem answerRead_cfg (h : Bool) : (s.answerRead h).cfg = s.cfg := rfl
@[simp] theorem answerRead_fs (h : Bool) : (s.answerRead h).fs = s.fs := rfl
@[simp] theorem answerRead_lv (h : Bool) : (s.answerRead h).lv =
      { s.lv with rdDone := true, rdHit := h } := rfl
@[simp] theorem answerRead_slots (h : Bool) : (s.answerRead h).slots = s.slots := rfl
@[simp] theorem answerRead_inputs (h : Bool) : (s.answerRead h).inputs = s.inputs := rfl
@[simp] theorem answerRead_cycle (h : Bool) : (s.answerRead h).cycle = s.cycle := rfl

/-! `backToSeek` -/

@[simp] theorem backToSeek_cfg : (s.backToSeek).cfg = s.cfg := rfl
@[simp] theorem backToSeek_fs : (s.backToSeek).fs =
      { s.fs with state := .seek, midx := 0, pcnt := 0, sum := 0 } := rfl
@[simp] theorem backToSeek_lv : (s.backToSeek).lv = s.lv := rfl
@[simp] theorem backToSeek_slots : (s.backToSeek).slots = s.slots := rfl
@[simp] theorem backToSeek_inputs : (s.backToSeek).inputs = s.inputs := rfl
@[simp] theorem backToSeek_cycle : (s.backToSeek).cycle = s.cycle := rfl

/-! `setMidx` -/

@[simp] theorem setMidx_cfg (k : MarkerIdx) : (s.setMidx k).cfg = s.cfg := rfl
@[simp] theorem setMidx_fs (k : MarkerIdx) : (s.setMidx k).fs = { s.fs with midx := k } := rfl
@[simp] theorem setMidx_lv (k : MarkerIdx) : (s.setMidx k).lv = s.lv := rfl
@[simp] theorem setMidx_slots (k : MarkerIdx) : (s.setMidx k).slots = s.slots := rfl
@[simp] theorem setMidx_inputs (k : MarkerIdx) : (s.setMidx k).inputs = s.inputs := rfl
@[simp] theorem setMidx_cycle (k : MarkerIdx) : (s.setMidx k).cycle = s.cycle := rfl

/-! `enterPayload` -/

@[simp] theorem enterPayload_cfg : (s.enterPayload).cfg = s.cfg := rfl
@[simp] theorem enterPayload_fs : (s.enterPayload).fs =
      { s.fs with state := .payload, midx := 0, pcnt := 0, sum := 0 } := rfl
@[simp] theorem enterPayload_lv : (s.enterPayload).lv = s.lv := rfl
@[simp] theorem enterPayload_slots : (s.enterPayload).slots = s.slots := rfl
@[simp] theorem enterPayload_inputs : (s.enterPayload).inputs = s.inputs := rfl
@[simp] theorem enterPayload_cycle : (s.enterPayload).cycle = s.cycle := rfl

/-! `advancePayload` -/

@[simp] theorem advancePayload_cfg (k : Nat) (v : Byte) : (s.advancePayload k v).cfg = s.cfg := rfl
@[simp] theorem advancePayload_fs (k : Nat) (v : Byte) : (s.advancePayload k v).fs =
      { s.fs with pcnt := k, sum := v } := rfl
@[simp] theorem advancePayload_lv (k : Nat) (v : Byte) : (s.advancePayload k v).lv = s.lv := rfl
@[simp] theorem advancePayload_slots (k : Nat) (v : Byte) : (s.advancePayload k v).slots =
      s.slots := rfl
@[simp] theorem advancePayload_inputs (k : Nat) (v : Byte) : (s.advancePayload k v).inputs =
      s.inputs := rfl
@[simp] theorem advancePayload_cycle (k : Nat) (v : Byte) : (s.advancePayload k v).cycle =
      s.cycle := rfl

/-! `enterChecksum` -/

@[simp] theorem enterChecksum_cfg (v : Byte) : (s.enterChecksum v).cfg = s.cfg := rfl
@[simp] theorem enterChecksum_fs (v : Byte) : (s.enterChecksum v).fs =
      { s.fs with state := .checksum, pcnt := 0, sum := v } := rfl
@[simp] theorem enterChecksum_lv (v : Byte) : (s.enterChecksum v).lv = s.lv := rfl
@[simp] theorem enterChecksum_slots (v : Byte) : (s.enterChecksum v).slots = s.slots := rfl
@[simp] theorem enterChecksum_inputs (v : Byte) : (s.enterChecksum v).inputs = s.inputs := rfl
@[simp] theorem enterChecksum_cycle (v : Byte) : (s.enterChecksum v).cycle = s.cycle := rfl

/-! `takeError` -/

@[simp] theorem takeError_cfg (k : EvKind) : (takeError k s).cfg = s.cfg := rfl
@[simp] theorem takeError_fs (k : EvKind) : (takeError k s).fs =
      { state := .seek, midx := 0, pcnt := 0, sum := 0, evValid := true, evKind := k, evGen := s.lv.gen } := rfl
@[simp] theorem takeError_lv (k : EvKind) : (takeError k s).lv = s.lv := rfl
@[simp] theorem takeError_slots (k : EvKind) : (takeError k s).slots = s.slots := rfl
@[simp] theorem takeError_inputs (k : EvKind) : (takeError k s).inputs = s.inputs := rfl
@[simp] theorem takeError_cycle (k : EvKind) : (takeError k s).cycle = s.cycle := rfl

/-! `publish` -/

@[simp] theorem publish_cfg : (publish s).cfg = s.cfg := rfl
@[simp] theorem publish_fs : (publish s).fs = s.fs := rfl
@[simp] theorem publish_lv : (publish s).lv =
      { s.lv with
          wIdx := s.lv.mIdx, mIdx := s.lv.wIdx, hasValue := true, fresh := true, gen := nextGen s } := rfl
@[simp] theorem publish_slots : (publish s).slots = s.slots := rfl
@[simp] theorem publish_inputs : (publish s).inputs = s.inputs := rfl
@[simp] theorem publish_cycle : (publish s).cycle = s.cycle := rfl

/-! `rotate` -/

@[simp] theorem rotate_cfg : (rotate s).cfg = s.cfg := rfl
@[simp] theorem rotate_fs : (rotate s).fs = s.fs := rfl
@[simp] theorem rotate_lv : (rotate s).lv =
      { s.lv with
          rIdx := s.lv.mIdx, mIdx := s.lv.wIdx, wIdx := s.lv.rIdx, rSeen := true, rGen := s.lv.gen } := rfl
@[simp] theorem rotate_slots : (rotate s).slots = s.slots := rfl
@[simp] theorem rotate_inputs : (rotate s).inputs = s.inputs := rfl
@[simp] theorem rotate_cycle : (rotate s).cycle = s.cycle := rfl

/-! `exchangeBackMiddle` -/

@[simp] theorem exchangeBackMiddle_cfg : (exchangeBackMiddle s).cfg = s.cfg := rfl
@[simp] theorem exchangeBackMiddle_fs : (exchangeBackMiddle s).fs = s.fs := rfl
@[simp] theorem exchangeBackMiddle_lv : (exchangeBackMiddle s).lv =
      { s.lv with wIdx := s.lv.mIdx, mIdx := s.lv.wIdx } := rfl
@[simp] theorem exchangeBackMiddle_slots : (exchangeBackMiddle s).slots = s.slots := rfl
@[simp] theorem exchangeBackMiddle_inputs : (exchangeBackMiddle s).inputs = s.inputs := rfl
@[simp] theorem exchangeBackMiddle_cycle : (exchangeBackMiddle s).cycle = s.cycle := rfl

/-! `markPublished` -/

@[simp] theorem markPublished_cfg : (markPublished s).cfg = s.cfg := rfl
@[simp] theorem markPublished_fs : (markPublished s).fs = s.fs := rfl
@[simp] theorem markPublished_lv : (markPublished s).lv =
      { s.lv with hasValue := true, fresh := true, gen := nextGen s } := rfl
@[simp] theorem markPublished_slots : (markPublished s).slots = s.slots := rfl
@[simp] theorem markPublished_inputs : (markPublished s).inputs = s.inputs := rfl
@[simp] theorem markPublished_cycle : (markPublished s).cycle = s.cycle := rfl

end Sys2Proof.Machine
end

