-- ==== Sys2Proof/Laws/Edge.lean ====
section
/-! SUPPORT. What one clock edge can do, said once: `FsCase` lists everything the frame
synchronizer's half can do outside reset, `LvCase` everything the cell's half can do, and `edge_next`
says that an edge with a next state is a reset or one case of each. -/

namespace Sys2Proof.Machine

/-- What the FS half of an edge on `w` leaves outside reset: the FS registers, the slots, and the
publish strobe. -/
inductive FsCase (w : StimWord) (s : State) : FsRegs → Memory → Bool → Prop
  | terr (he : swErr w = true) : FsCase w s
      { state := .seek, midx := 0, pcnt := 0, sum := 0, evValid := true, evKind := .transportError,
        evGen := s.lv.gen } s.slots false
  | ill (he : swErr w = false) (hs : s.fs.state = .illegal) : FsCase w s
      { s.fs with state := .seek, midx := 0, pcnt := 0, sum := 0, evValid := false } s.slots false
  | idle (he : swErr w = false) (hv : swValid w = false) (hs : s.fs.state ≠ .illegal) : FsCase w s
      { s.fs with evValid := false } s.slots false
  | markerDone (he : swErr w = false) (hv : swValid w = true) (hs : s.fs.state = .seek)
      (hb : swData w = markerOperand s) (hk : s.fs.midx = 3) : FsCase w s
      { s.fs with state := .payload, midx := 0, pcnt := 0, sum := 0, evValid := false } s.slots false
  | markerNext (he : swErr w = false) (hv : swValid w = true) (hs : s.fs.state = .seek)
      (hb : swData w = markerOperand s) (hk : s.fs.midx ≠ 3) : FsCase w s
      { s.fs with midx := s.fs.midx + 1, evValid := false } s.slots false
  | restart (he : swErr w = false) (hv : swValid w = true) (hs : s.fs.state = .seek)
      (hb : swData w ≠ markerOperand s) (h0 : swData w = markerStart s) : FsCase w s
      { s.fs with midx := 1, evValid := false } s.slots false
  | discard (he : swErr w = false) (hv : swValid w = true) (hs : s.fs.state = .seek)
      (hb : swData w ≠ markerOperand s) (h0 : swData w ≠ markerStart s) : FsCase w s
      { s.fs with midx := 0, evValid := false } s.slots false
  | payload (a : Nat) (he : swErr w = false) (hv : swValid w = true) (hs : s.fs.state = .payload)
      (ha : slotAddr s.cfg s.lv.wIdx s.fs.pcnt = some a) (hk : s.fs.pcnt + 1 ≠ s.cfg.plen) : FsCase w s
      { s.fs with pcnt := s.fs.pcnt + 1, sum := s.fs.sum + swData w, evValid := false }
      (Memory.write s.slots a (swData w)) false
  | payloadLast (a : Nat) (he : swErr w = false) (hv : swValid w = true) (hs : s.fs.state = .payload)
      (ha : slotAddr s.cfg s.lv.wIdx s.fs.pcnt = some a) (hk : s.fs.pcnt + 1 = s.cfg.plen) : FsCase w s
      { s.fs with state := .checksum, pcnt := 0, sum := s.fs.sum + swData w, evValid := false }
      (Memory.write s.slots a (swData w)) false
  | accept (he : swErr w = false) (hv : swValid w = true) (hs : s.fs.state = .checksum)
      (hb : swData w = s.fs.sum) : FsCase w s
      { state := .seek, midx := 0, pcnt := 0, sum := 0, evValid := true, evKind := .frameOk,
        evGen := nextGen s } s.slots true
  | reject (he : swErr w = false) (hv : swValid w = true) (hs : s.fs.state = .checksum)
      (hb : swData w ≠ s.fs.sum) : FsCase w s
      { state := .seek, midx := 0, pcnt := 0, sum := 0, evValid := true, evKind := .checksumMismatch,
        evGen := s.lv.gen } s.slots false

/-- What the LV half of an edge leaves outside reset, by the publish strobe and `rd_req`. -/
inductive LvCase (s : State) (pub rd : Bool) : LvRegs → Prop
  | idle (hp : pub = false) (hd : rd = false) : LvCase s pub rd
      { s.lv with rdDone := false, rdHit := false }
  | hit (hp : pub = false) (hd : rd = true) (hf : s.lv.fresh = true) : LvCase s pub rd
      { s.lv with rIdx := s.lv.mIdx, mIdx := s.lv.rIdx, fresh := false, rSeen := true,
                  rGen := s.lv.gen, rdDone := true, rdHit := true }
  | miss (hp : pub = false) (hd : rd = true) (hf : s.lv.fresh = false) : LvCase s pub rd
      { s.lv with rdDone := true, rdHit := false }
  | publish (hp : pub = true) (hd : rd = false) : LvCase s pub rd
      { s.lv with wIdx := s.lv.mIdx, mIdx := s.lv.wIdx, hasValue := true, fresh := true,
                  gen := nextGen s, rdDone := false, rdHit := false }
  | publishHit (hp : pub = true) (hd : rd = true) (hf : s.lv.fresh = true) : LvCase s pub rd
      { s.lv with rIdx := s.lv.mIdx, mIdx := s.lv.wIdx, wIdx := s.lv.rIdx, hasValue := true,
                  fresh := true, gen := nextGen s, rSeen := true, rGen := s.lv.gen, rdDone := true,
                  rdHit := true }
  | publishMiss (hp : pub = true) (hd : rd = true) (hf : s.lv.fresh = false) : LvCase s pub rd
      { s.lv with wIdx := s.lv.mIdx, mIdx := s.lv.wIdx, hasValue := true, fresh := true,
                  gen := nextGen s, rdDone := true, rdHit := false }

/-- Every LV operation answers a next state that differs in the LV's registers alone. -/
theorem exec_lv_next {i : Instr} (hi : i.isFs = false) (s : State) :
    ∃ l, exec i s = .next { s with lv := l } := by
  cases i <;> simp [Instr.isFs] at hi
  case lvReset => exact ⟨_, rfl⟩
  case lvIdle => exact ⟨_, rfl⟩
  case lvTryread =>
    simp only [exec, execLvTryread, tryRead]
    split <;> exact ⟨_, rfl⟩
  case lvPublish => exact ⟨_, rfl⟩
  case lvPublishTryread =>
    simp only [exec, execLvPublishTryread]
    split <;> exact ⟨_, rfl⟩

/-- Every FS operation that answers a next state leaves all but the FS's registers and the slots. -/
theorem exec_fs_next {i : Instr} (hi : i.isFs = true) {s t : State} (h : exec i s = .next t) :
    t = { s with fs := t.fs, slots := t.slots } := by
  cases i <;> simp [Instr.isFs] at hi
  case fsSeekByte b =>
    simp only [exec, execFsSeekByte] at h
    split at h
    · split at h <;> (cases h; rfl)
    · split at h <;> (cases h; rfl)
  case fsPayloadByte b =>
    simp only [exec, execFsPayloadByte, slotWrite] at h
    cases ha : slotAddr s.cfg s.lv.wIdx s.fs.pcnt with
    | none => simp [ha] at h
    | some a =>
      simp only [ha, Option.map_some] at h
      split at h <;> (cases h; rfl)
  case fsChecksumByte b =>
    simp only [exec, execFsChecksumByte] at h
    split at h <;> (cases h; rfl)
  all_goals (cases h; rfl)

/-- An edge has a next state exactly when its FS half has one, and the next state takes the FS's
registers and the slots from that half, the LV's registers from the other. -/
theorem edge_next_iff {w : StimWord} {s t : State} : edge w s = .next t ↔
    ∃ sf sl, exec (edgeOps w s).fs s = .next sf ∧ exec (edgeOps w s).lv s = .next sl ∧
      t = { sf with lv := sl.lv } := by
  obtain ⟨l, hl⟩ := exec_lv_next (i := (edgeOps w s).lv) (lvInstr_isFs _ _) s
  simp only [edge, runOps, hl]
  cases exec (edgeOps w s).fs s with
  | next sf => simp [mergeHalves, eq_comm]
  | fault r => simp
  | refused r => simp

/-- The FS half of an edge outside reset is one of `FsCase`. -/
theorem fsCase_of_exec {w : StimWord} {s sf : State} (hr : swRst w = false)
    (h : exec (fsInstr w s.fs.state) s = .next sf) :
    FsCase w s sf.fs sf.slots (publishStrobe (fsInstr w s.fs.state) s) := by
  rw [fsInstr_eq, if_neg (by simp [hr])] at h ⊢
  cases he : swErr w with
  | true =>
    simp only [he, if_true] at h ⊢
    cases h
    exact .terr he
  | false =>
    simp only [he, Bool.false_eq_true, if_false] at h ⊢
    cases hs : s.fs.state <;> cases hv : swValid w <;> simp only [hs, hv] at h ⊢
    case seek.false => cases h; exact .idle he hv (by simp [hs])
    case payload.false => cases h; exact .idle he hv (by simp [hs])
    case checksum.false => cases h; exact .idle he hv (by simp [hs])
    case illegal.false => cases h; exact .ill he hs
    case illegal.true => cases h; exact .ill he hs
    case seek.true =>
      simp only [exec, execFsSeekByte] at h
      split at h
      · rename_i hb
        split at h
        · rename_i hk; cases h; exact .markerDone he hv hs hb hk
        · rename_i hk; cases h; exact .markerNext he hv hs hb hk
      · rename_i hb
        split at h
        · rename_i h0; cases h; exact .restart he hv hs hb h0
        · rename_i h0; cases h; exact .discard he hv hs hb h0
    case payload.true =>
      simp only [exec, execFsPayloadByte, slotWrite] at h
      cases ha : slotAddr s.cfg s.lv.wIdx s.fs.pcnt with
      | none => simp [ha] at h
      | some a =>
        simp only [ha, Option.map_some, lastPayloadByte, beq_iff_eq] at h
        split at h
        · rename_i hk; cases h; exact .payloadLast a he hv hs ha hk
        · rename_i hk; cases h; exact .payload a he hv hs ha hk
    case checksum.true =>
      simp only [exec, execFsChecksumByte, publishStrobe] at h ⊢
      cases hb : checksumMatches s (swData w) with
      | true =>
        simp only [hb, if_true] at h
        cases h
        exact .accept he hv hs (by simpa [checksumMatches] using hb)
      | false =>
        simp only [hb, Bool.false_eq_true, if_false] at h
        cases h
        exact .reject he hv hs (by simpa [checksumMatches] using hb)

/-- The LV half of an edge outside reset is one of `LvCase`. -/
theorem lvCase_of_exec {w : StimWord} {s sl : State} {pub : Bool} (hr : swRst w = false)
    (h : exec (lvInstr w pub) s = .next sl) : LvCase s pub (swRd w) sl.lv := by
  rw [lvInstr_eq, if_neg (by simp [hr])] at h
  cases pub <;> cases hd : swRd w <;> simp only [hd] at h
  · cases h; exact .idle rfl rfl
  · simp only [exec, execLvTryread, tryRead] at h
    split at h
    · rename_i hf; cases h; exact .hit rfl rfl hf
    · rename_i hf; cases h; exact .miss rfl rfl (by simpa using hf)
  · cases h; exact .publish rfl rfl
  · simp only [exec, execLvPublishTryread] at h
    split at h
    · rename_i hf; cases h; exact .publishHit rfl rfl hf
    · rename_i hf; cases h; exact .publishMiss rfl rfl (by simpa using hf)

/-- The edge with `rst = 1`. -/
theorem edge_reset {w : StimWord} (s : State) (hr : swRst w = true) :
    edge w s = .next { s with fs := FsRegs.reset, lv := LvRegs.reset } := by
  simp [edge, edgeOps, runOps, fsInstr_eq, lvInstr_eq, hr, exec, execFsReset, execLvReset, mergeHalves]

/-- Everything an edge with a next state can have done. -/
theorem edge_next {w : StimWord} {s t : State} (h : edge w s = .next t) :
    (swRst w = true ∧ t = { s with fs := FsRegs.reset, lv := LvRegs.reset }) ∨
    (swRst w = false ∧ ∃ f m pub l, FsCase w s f m pub ∧ LvCase s pub (swRd w) l ∧
      t = { s with fs := f, slots := m, lv := l }) := by
  cases hr : swRst w with
  | true => rw [edge_reset s hr] at h; cases h; exact .inl ⟨rfl, rfl⟩
  | false =>
    obtain ⟨sf, sl, hf, hl, rfl⟩ := edge_next_iff.1 h
    refine .inr ⟨rfl, _, _, _, _, fsCase_of_exec (sf := sf) hr hf, lvCase_of_exec (sl := sl) hr hl, ?_⟩
    rw [exec_fs_next (fsInstr_isFs _ _) hf]

/-- An edge changes the slots, if at all, by one store at `(w_idx, pcnt)` in PAYLOAD. -/
theorem FsCase.slots_cases {w : StimWord} {s : State} {f : FsRegs} {m : Memory} {pub : Bool}
    (h : FsCase w s f m pub) : m = s.slots ∨
      ∃ a, s.fs.state = .payload ∧ slotAddr s.cfg s.lv.wIdx s.fs.pcnt = some a ∧
        m = Memory.write s.slots a (swData w) := by
  cases h with
  | payload a _ _ hs ha _ => exact .inr ⟨a, hs, ha, rfl⟩
  | payloadLast a _ _ hs ha _ => exact .inr ⟨a, hs, ha, rfl⟩
  | _ => exact .inl rfl

/-- The frames of all slots but the back slot survive an edge. -/
theorem FsCase.slotFrame_other {w : StimWord} {s : State} {f f' : FsRegs} {m : Memory} {pub : Bool}
    {l : LvRegs} (h : FsCase w s f m pub) {j : SlotIdx} (hj : j ≠ s.lv.wIdx) :
    slotFrame { s with fs := f', slots := m, lv := l } j = slotFrame s j := by
  rcases h.slots_cases with rfl | ⟨a, -, ha, rfl⟩
  · exact slotFrame_after_none f' l j
  · exact slotFrame_after_other f' l ha _ hj

/-- Where the payload position is a byte of the store, an edge has a next state. -/
theorem edge_exists (w : StimWord) (s : State)
    (h : s.fs.state = .payload → s.lv.wIdx.toNat < 3 ∧ s.fs.pcnt < s.cfg.plen) :
    ∃ t, edge w s = .next t := by
  obtain ⟨l, hl⟩ := exec_lv_next (i := (edgeOps w s).lv) (lvInstr_isFs _ _) s
  suffices hf : ∃ sf, exec (fsInstr w s.fs.state) s = .next sf by
    obtain ⟨sf, hf⟩ := hf
    exact ⟨_, edge_next_iff.2 ⟨sf, _, hf, hl, rfl⟩⟩
  rw [fsInstr_eq]
  split
  · exact ⟨_, rfl⟩
  · split
    · exact ⟨_, rfl⟩
    · cases hs : s.fs.state <;> cases swValid w <;> simp only
      case payload.true =>
        obtain ⟨h1, h2⟩ := h hs
        simp only [exec, execFsPayloadByte, slotWrite, slotAddr_isSome h1 h2, Option.map_some]
        split <;> exact ⟨_, rfl⟩
      case seek.true =>
        simp only [exec, execFsSeekByte]
        split
        · split <;> exact ⟨_, rfl⟩
        · split <;> exact ⟨_, rfl⟩
      case checksum.true =>
        simp only [exec, execFsChecksumByte]
        split <;> exact ⟨_, rfl⟩
      all_goals exact ⟨_, rfl⟩

end Sys2Proof.Machine
end

