-- ==== Sys2Proof/Laws/PerInstr.lean ====
section
/-! SUPPORT. One fact for each operation as syntax: its row in the opcode table. -/

namespace Sys2Proof.Laws.TableRow

/-- The key byte of the operation's image matches one row of its format and no other, and that row
carries the operation's mnemonic (R94, R95). -/
def Statement (i : Instr) : Prop :=
  ∃ r : OpRow, rowsMatching i.isFs i.keyByte = [r] ∧ r.mnemonic = i.mnemonic

theorem fsReset : Statement .fsReset := ⟨_, rfl, rfl⟩
theorem fsTerr : Statement .fsTerr := ⟨_, rfl, rfl⟩
theorem fsIll : Statement .fsIll := ⟨_, rfl, rfl⟩
theorem fsIdleS : Statement .fsIdleS := ⟨_, rfl, rfl⟩
theorem fsIdleP : Statement .fsIdleP := ⟨_, rfl, rfl⟩
theorem fsIdleC : Statement .fsIdleC := ⟨_, rfl, rfl⟩
theorem fsSeekByte (b : Byte) : Statement (.fsSeekByte b) :=
  ⟨⟨"FS.SEEK_BYTE", true, 0b00100, 0b11111⟩, (by decide : rowsMatching true 0b00100 = _), rfl⟩
theorem fsPayloadByte (b : Byte) : Statement (.fsPayloadByte b) :=
  ⟨⟨"FS.PAYLOAD_BYTE", true, 0b00101, 0b11111⟩, (by decide : rowsMatching true 0b00101 = _), rfl⟩
theorem fsChecksumByte (b : Byte) : Statement (.fsChecksumByte b) :=
  ⟨⟨"FS.CHECKSUM_BYTE", true, 0b00110, 0b11111⟩, (by decide : rowsMatching true 0b00110 = _), rfl⟩
theorem lvReset : Statement .lvReset := ⟨_, rfl, rfl⟩
theorem lvIdle : Statement .lvIdle := ⟨_, rfl, rfl⟩
theorem lvTryread : Statement .lvTryread := ⟨_, rfl, rfl⟩
theorem lvPublish : Statement .lvPublish := ⟨_, rfl, rfl⟩
theorem lvPublishTryread : Statement .lvPublishTryread := ⟨_, rfl, rfl⟩

end Sys2Proof.Laws.TableRow
end

