-- ==== Sys2Proof/Laws/Stimulus.lean ====
section
/-! SUPPORT. What the stimulus words of a byte sequence present to the block. -/

namespace Sys2Proof.Machine

/-- The word of `B b`: a byte alone, and the byte is `b` (R101). -/
theorem byteWord_fields (b : Byte) :
    quiet (lineWord (.byte b)) = true ∧ swRd (lineWord (.byte b)) = false ∧
    swValid (lineWord (.byte b)) = true ∧ swData (lineWord (.byte b)) = b := by
  refine ⟨?_, ?_, ?_, ?_⟩
  · simp [quiet, lineWord, swRst, swErr]
  · simp [lineWord, swRd]
  · simp [lineWord, swValid]
  · simp only [lineWord, swData]
    ext i hi
    have h : i < 12 := by omega
    have h9 : (512#12)[i] = false := by interval_cases i <;> simp
    simp [hi, h, h9, BitVec.getLsbD_eq_getElem]

/-- The words of a byte sequence present exactly its bytes (R102). -/
theorem bytesOf_byteWords (bs : List Byte) : bytesOf (byteWords bs) = bs := by
  induction bs with
  | nil => rfl
  | cons b bs ih =>
    simp only [bytesOf, byteWords, List.map_cons, List.filterMap_cons] at ih ⊢
    simp [(byteWord_fields b).2.2.1, (byteWord_fields b).2.2.2, ih]

/-- They neither reset, nor report an error, nor read. -/
theorem quiet_byteWords (bs : List Byte) : ∀ w ∈ byteWords bs, quiet w = true ∧ swRd w = false := by
  intro w hw
  obtain ⟨b, -, rfl⟩ := List.mem_map.1 hw
  exact ⟨(byteWord_fields b).1, (byteWord_fields b).2.1⟩

end Sys2Proof.Machine
end

