-- ==== Sys2Proof/Tests/Slice0.lean ====
section
/-! SUPPORT. Tests of the model (expected results from spec/30_encoding.md and
spec/95_test_vectors.md) and, for every statement with hypotheses, a witness that meets them. -/

namespace Sys2Proof.Tests

open Sys2Proof.Machine

/-! ## Helpers -/

/-- The outcome is a next state that passes `p`. -/
def nextIs (o : Host.Outcome State Fault Refusal) (p : State → Bool) : Bool :=
  match o with
  | .next t => p t
  | .fault _ => false
  | .refused _ => false

theorem next_of {o : Host.Outcome State Fault Refusal} {p : State → Bool} (h : nextIs o p = true) :
    ∃ t, o = .next t ∧ p t = true := by
  cases o with
  | next t => exact ⟨t, rfl, h⟩
  | fault _ => cases h
  | refused _ => cases h

/-- An edge whose next state is known. -/
theorem goes_to {o : Host.Outcome State Fault Refusal} {u : State} (h : nextIs o (fun t => t == u) = true) :
    o = .next u := by
  obtain ⟨t, rfl, ht⟩ := next_of h
  rw [eq_of_beq ht]

/-- A run by its first edge and the rest. -/
theorem run_step {w : StimWord} {ws : List StimWord} {s t : State}
    {r : Host.Outcome State Fault Refusal} (h : edge w s = .next t) (k : feed ws t = r) :
    feed (w :: ws) s = r := by simp [feed, h, k]

/-- A run by all its edges but the last, and the last. -/
theorem run_then {w : StimWord} {ws : List StimWord} {s t u : State} (h : feed ws s = .next t)
    (k : edge w t = .next u) : feed (ws ++ [w]) s = .next u := by
  induction ws generalizing s with
  | nil => cases h; exact run_step k rfl
  | cons v vs ih =>
    simp only [feed, List.cons_append] at h ⊢
    split at h
    · exact ih h
    · cases h
    · cases h

/-- The FS position and checksum of a test state. -/
def atPos (st : FsState) (midx : MarkerIdx) (pcnt : Nat) (sum : Byte) (s : State) : State :=
  { s with fs := { s.fs with state := st, midx := midx, pcnt := pcnt, sum := sum } }

/-- The cell as spec/95_test_vectors.md section 2.8 writes it: (w,m,r, has,fresh,gen, seen,r_gen). -/
def withCell (w m r : SlotIdx) (has fresh : Bool) (gen : Nat) (seen : Bool) (rGen : Nat) (s : State) : State :=
  { s with lv := { s.lv with wIdx := w, mIdx := m, rIdx := r, hasValue := has, fresh := fresh,
                             gen := gen, rSeen := seen, rGen := rGen } }

def cellOf (s : State) : SlotIdx × SlotIdx × SlotIdx × Bool × Bool × Nat × Bool × Nat × Bool × Bool :=
  (s.lv.wIdx, s.lv.mIdx, s.lv.rIdx, s.lv.hasValue, s.lv.fresh, s.lv.gen, s.lv.rSeen, s.lv.rGen,
    s.lv.rdDone, s.lv.rdHit)

/-- N = 2, as in the spec's vectors. -/
def s2 : State := State.reset

/-- N = 1, the smallest build. -/
def s1 : State := State.resetOf (Config.ofLeds 1)

/-- N = 1, two of the three payload bytes 1, 2, 3 taken. -/
def lastByte1 : State := { atPos .payload 0 2 3 s1 with slots := [(0, 1), (1, 2)] }

/-- N = 1, payload 1, 2, 3 taken; the checksum byte 6 is due. -/
def due1 : State := { atPos .checksum 0 0 6 s1 with slots := [(0, 1), (1, 2), (2, 3)] }

/-- N = 1, that frame published and not read. -/
def fresh1 : State :=
  { withCell 1 0 2 true true 1 false 0 s1 with slots := [(0, 1), (1, 2), (2, 3)] }

/-- N = 1, that frame read. -/
def seen1 : State :=
  { withCell 1 2 0 true false 1 true 1 s1 with slots := [(0, 1), (1, 2), (2, 3)] }

/-- N = 1, that frame published and not read, and a second one due. -/
def freshDue1 : State :=
  { atPos .checksum 0 0 9 fresh1 with
      slots := [(0, 1), (1, 2), (2, 3), (3, 2), (4, 3), (5, 4)] }

/-- What `due1` becomes on its checksum byte, and that after a read. -/
def pub1 : State := { fresh1 with fs := { fresh1.fs with evValid := true, evGen := 1 } }
def read1 : State :=
  { seen1 with fs := { seen1.fs with evGen := 1 }, lv := { seen1.lv with rdDone := true, rdHit := true } }

/-- What `freshDue1` becomes on its checksum byte with a read beside it, and that after a read. -/
def both1 : State :=
  { withCell 2 1 0 true true 2 true 1 freshDue1 with
      fs := { freshDue1.fs with state := .seek, sum := 0, evValid := true, evGen := 2 }
      lv := { (withCell 2 1 0 true true 2 true 1 freshDue1).lv with rdDone := true, rdHit := true } }
def reread1 : State :=
  { both1 with fs := { both1.fs with evValid := false }
               lv := { both1.lv with mIdx := 0, rIdx := 1, fresh := false, rGen := 2 } }

def idleW : StimWord := 0x000
def readW : StimWord := 0x100
def errW : StimWord := 0x400
def rstW : StimWord := 0x800

/-- The message of payload 1, 2, 3 as stimulus words, written out from R90 and R101. -/
def msg123 : List StimWord := [0x253, 0x247, 0x24C, 0x250, 0x201, 0x202, 0x203, 0x206]

/-! ## Well-formedness: each check refuses an ill-formed term -/

theorem msg123_bytes : msg123 = byteWords (message s1.cfg [1, 2, 3]) := by decide

/-- A word stands before a byte sequence's words without a byte of its own. -/
theorem bytesOf_cons_none {w : StimWord} {ws : List StimWord} (h : swValid w = false) :
    bytesOf (w :: ws) = bytesOf ws := by simp [bytesOf, h]

theorem quiet_bytes (bs : List Byte) : ∀ w ∈ byteWords bs, quiet w = true :=
  fun w hw => (quiet_byteWords bs w hw).1

theorem test_wf_standard : Config.standard.wellFormed = true := by decide
theorem test_wf_refuses_no_leds : (Config.ofLeds 0).wellFormed = false := by decide
theorem test_wf_refuses_short_fallback :
    { Config.standard with fallback := [0xFF] }.wellFormed = false := by decide
theorem test_wf_pair : (EdgeOps.mk (.fsChecksumByte 1) .lvPublish).wellFormed = true := by decide
theorem test_wf_refuses_lv_in_fs_place : (EdgeOps.mk .lvIdle .lvIdle).wellFormed = false := by decide
theorem test_wf_refuses_fs_in_lv_place : (EdgeOps.mk .fsIdleS .fsIdleS).wellFormed = false := by decide
theorem test_wf_refuses_half_reset : (EdgeOps.mk .fsReset .lvIdle).wellFormed = false := by decide
theorem test_wf_refuses_stray_publish :
    (EdgeOps.mk (.fsSeekByte 1) .lvPublish).wellFormed = false := by decide
theorem test_wf_refuses_short_pay :
    (SourceRow.mk (.pay [1, 2]) false).wellFormed Config.standard = false := by decide
theorem test_wf_refuses_long_msg :
    (SourceRow.mk (.msg [1, 2, 3, 4, 5, 6, 7]) false).wellFormed Config.standard = false := by decide
theorem test_wf_refuses_bad_delta :
    (SourceRow.mk (.badCsum 0) false).wellFormed Config.standard = false ∧
    (SourceRow.mk (.badMsg 0 [1, 2, 3, 4, 5, 6]) false).wellFormed Config.standard = false := by decide
theorem test_wf_refuses_read_suffix_on_many :
    (SourceRow.mk (.idles 2) true).wellFormed Config.standard = false ∧
    (SourceRow.mk (.bytes [1, 2]) true).wellFormed Config.standard = false ∧
    (SourceRow.mk .magic true).wellFormed Config.standard = false := by decide

/-! ## Decoding: words written out from R94 and R95, one for each constructor -/

theorem test_decode_fsReset : decode [0b10110, 0x15] = .ok .fsReset := by decide
theorem test_decode_fsTerr : decode [0b01010, 0x00] = .ok .fsTerr := by decide
theorem test_decode_fsIll : decode [0b00011, 0x00] = .ok .fsIll ∧ decode [0b00111, 0x00] = .ok .fsIll := by
  decide
theorem test_decode_fsIdleS : decode [0b00000, 0x53] = .ok .fsIdleS := by decide
theorem test_decode_fsIdleP : decode [0b00001, 0x00] = .ok .fsIdleP := by decide
theorem test_decode_fsIdleC : decode [0b00010, 0x00] = .ok .fsIdleC := by decide
theorem test_decode_fsSeekByte : decode [0b00100, 0x53] = .ok (.fsSeekByte 0x53) := by decide
theorem test_decode_fsPayloadByte : decode [0b00101, 0xFF] = .ok (.fsPayloadByte 0xFF) := by decide
theorem test_decode_fsChecksumByte : decode [0b00110, 0x80] = .ok (.fsChecksumByte 0x80) := by decide
theorem test_decode_lvReset : decode [0b111] = .ok .lvReset := by decide
theorem test_decode_lvIdle : decode [0b000] = .ok .lvIdle := by decide
theorem test_decode_lvTryread : decode [0b001] = .ok .lvTryread := by decide
theorem test_decode_lvPublish : decode [0b010] = .ok .lvPublish := by decide
theorem test_decode_lvPublishTryread : decode [0b011] = .ok .lvPublishTryread := by decide
theorem test_decode_refuses : decode [0b1000] = .error .bitsAboveKey ∧
    decode [0x20, 0] = .error .bitsAboveKey ∧ decode [0, 0, 0] = .error .badLength := by decide

/-- Table words as the host numbers them, and one whose data byte is in bits 15..8. -/
theorem test_decode_table_word : decodeTableWord 8 0b00101 = some (.fsPayloadByte 0) ∧
    decodeTableWord 16 0x5304 = some (.fsSeekByte 0x53) ∧
    decodeTableWord 3 0b011 = some .lvPublishTryread ∧ decodeTableWord 8 0x20 = none := by decide

/-- `0x253` in SEEK is FS.SEEK_BYTE, `0x336` in CHECKSUM FS.CHECKSUM_BYTE with a read (P2). -/
theorem test_decode_stimulus : fsInstr 0x253 .seek = .fsSeekByte 0x53 ∧
    fsInstr 0x336 .checksum = .fsChecksumByte 0x36 ∧ lvInstr 0x336 true = .lvPublishTryread ∧
    fsInstr 0x615 .checksum = .fsTerr := by decide

/-! ## One step at a time -/

/-- D-SK1h: the fourth marker byte. -/
theorem test_seek_completes : nextIs (exec (.fsSeekByte 0x50) (atPos .seek 3 0 0 s2))
    (fun t => t.fs.state == .payload && t.fs.midx == 0 && t.fs.pcnt == 0 && t.fs.sum == 0) = true := by
  decide

/-- D-SK1c, D-SK1f. -/
theorem test_seek_restarts : nextIs (exec (.fsSeekByte 0x53) (atPos .seek 1 0 0 s2))
    (fun t => t.fs.state == .seek && t.fs.midx == 1) = true ∧
    nextIs (exec (.fsSeekByte 0x47) (atPos .seek 2 0 0 s2)) (fun t => t.fs.midx == 0) = true := by
  decide

/-- D-PL2: the last payload byte. -/
theorem test_payload_last : nextIs (exec (.fsPayloadByte 0x06) (atPos .payload 0 5 0x0F s2))
    (fun t => t.fs.state == .checksum && t.fs.pcnt == 0 && t.fs.sum == 0x15 &&
      slotRead t 0 5 == some 0x06 && slotRead t 0 4 == none) = true := by decide

/-- D-PL3: the sum wraps. -/
theorem test_payload_wraps : nextIs (exec (.fsPayloadByte 0x03) (atPos .payload 0 2 0xFE s2))
    (fun t => t.fs.state == .payload && t.fs.pcnt == 3 && t.fs.sum == 0x01) = true := by decide

/-- D-CS1: a matching checksum reports FRAME_OK with generation 1. -/
theorem test_checksum_matches : nextIs (exec (.fsChecksumByte 0x15) (atPos .checksum 0 0 0x15 s2))
    (fun t => t.fs.evValid && t.fs.evKind == .frameOk && t.fs.evGen == 1 && t.fs.state == .seek) = true ∧
    publishStrobe (.fsChecksumByte 0x15) (atPos .checksum 0 0 0x15 s2) = true := by decide

/-- D-CS9: a mismatch; the byte is not taken as `MAGIC[0]`. -/
theorem test_checksum_mismatch : nextIs (exec (.fsChecksumByte 0x53) (atPos .checksum 0 0 0x15 s2))
    (fun t => t.fs.evValid && t.fs.evKind == .checksumMismatch && t.fs.evGen == 0 && t.fs.midx == 0) = true ∧
    publishStrobe (.fsChecksumByte 0x53) (atPos .checksum 0 0 0x15 s2) = false := by decide

/-- D-ID1 to D-ID3. -/
theorem test_idle : nextIs (exec .fsIdleS (atPos .seek 2 0 0 s2)) (fun t => t == atPos .seek 2 0 0 s2) = true ∧
    nextIs (exec .fsIdleP (atPos .payload 0 3 6 s2)) (fun t => t == atPos .payload 0 3 6 s2) = true ∧
    nextIs (exec .fsIdleC (atPos .checksum 0 0 0x15 s2)) (fun t => t == atPos .checksum 0 0 0x15 s2) = true := by
  decide

/-- D-TE2, D-TE3. -/
theorem test_terr : nextIs (exec .fsTerr (atPos .seek 3 0 0 s2))
    (fun t => t.fs.midx == 0 && t.fs.evValid && t.fs.evKind == .transportError) = true ∧
    nextIs (exec .fsTerr (atPos .payload 0 4 10 s2))
      (fun t => t.fs.state == .seek && t.fs.pcnt == 0 && t.fs.sum == 0) = true := by decide

/-- D-IL1. -/
theorem test_ill : nextIs (exec .fsIll (atPos .illegal 0 0 0 s2))
    (fun t => t.fs.state == .seek && t.fs.midx == 0 && !t.fs.evValid) = true := by decide

/-- D-RS1, and D-RS2: a byte in the reset cycle is ignored. -/
theorem test_reset : nextIs (edge 0xA53 (atPos .payload 0 1 9 (withCell 2 0 1 true true 7 true 3 s2)))
    (fun t => t.fs == FsRegs.reset && t.lv == LvRegs.reset && rdFrame t == List.replicate 6 0xFF) = true := by
  decide

/-- D-LV1, D-LV2. -/
theorem test_lv_idle : nextIs (exec .lvIdle s2)
    (fun t => cellOf t == (0, 1, 2, false, false, 0, false, 0, false, false)) = true := by decide
theorem test_lv_miss : nextIs (exec .lvTryread s2)
    (fun t => cellOf t == (0, 1, 2, false, false, 0, false, 0, true, false)) = true := by decide

/-- D-LV3, D-LV10. -/
theorem test_lv_publish : nextIs (exec .lvPublish s2)
    (fun t => cellOf t == (1, 0, 2, true, true, 1, false, 0, false, false)) = true := by decide
theorem test_lv_gen_wraps : nextIs (exec .lvPublish (withCell 0 1 2 true false 0xFFFFFFFF true 0 s2))
    (fun t => t.lv.gen == 0) = true := by decide

/-- D-LV4. -/
theorem test_lv_hit : nextIs (exec .lvTryread (withCell 1 0 2 true true 1 false 0 s2))
    (fun t => cellOf t == (1, 2, 0, true, false, 1, true, 1, true, true)) = true := by decide

/-- D-LV7, D-LV8. -/
theorem test_lv_both_miss : nextIs (exec .lvPublishTryread s2)
    (fun t => cellOf t == (1, 0, 2, true, true, 1, false, 0, true, false)) = true := by decide
theorem test_lv_both_hit : nextIs (exec .lvPublishTryread (withCell 0 1 2 true true 1 false 0 s2))
    (fun t => cellOf t == (2, 0, 1, true, true, 2, true, 1, true, true)) = true := by decide

/-- A step takes the word placed for it; a table word placed for it runs as the first instruction. -/
theorem test_step_takes_input : nextIs (step { s2 with inputs := [0x253, idleW] })
    (fun t => t.fs.midx == 1 && t.inputs == [idleW] && t.cycle == 1) = true := by decide
theorem test_withFetchWord : nextIs (step (s2.withFetchWord 8 0b00101))
    (fun t => t.fs.state == .payload && t.fs.pcnt == 1 && slotRead t 0 0 == some 0) = true := by decide

/-- D-RF3: the lanes of `rd_frame`. -/
theorem test_lanes : packLanes [1, 2, 3, 4, 5, 6] = 0x060504030201 := by decide

/-- D-AR3, D-AR4. -/
theorem test_sum8 : sum8 [0xFF, 0xFF, 0xFF, 0xFF, 0xFF, 0xFF] = 0xFA ∧ sum8 [0x80, 0x80, 0, 0, 0, 0] = 0 := by
  decide

/-- The words of P2's last message and of P4's end (R101, R102). -/
theorem test_assemble : assemble Config.standard none
    [⟨.magic, false⟩, ⟨.pay [0x53, 0x47, 0x4C, 0x50, 0x00, 0x00], false⟩, ⟨.csum, true⟩] =
    some [0x253, 0x247, 0x24C, 0x250, 0x253, 0x247, 0x24C, 0x250, 0x200, 0x200, 0x336] ∧
    assemble Config.standard none [⟨.line (.errByte 0x15), false⟩, ⟨.line .read, false⟩] =
      some [0x615, 0x100] := by decide
theorem test_assemble_refuses : assemble Config.standard none [⟨.csum, false⟩] = none := by decide

/-! ## Witnesses: states and operands that meet the hypotheses of the statements -/

/-! The invariants hold of test states in every phase. -/

theorem r40_start : R40 s1 := by constructor <;> decide
theorem r40_lastByte : R40 lastByte1 := by constructor <;> decide
theorem r40_due : R40 due1 := by constructor <;> decide
theorem r40_fresh : R40 fresh1 := by constructor <;> decide
theorem r40_seen : R40 seen1 := by constructor <;> decide
theorem r40_freshDue : R40 freshDue1 := by constructor <;> decide

theorem typed_lastByte : Typed lastByte1 := by constructor <;> decide
theorem shown_lastByte : ShownBytesWritten lastByte1 := by
  constructor <;> (unfold WrittenBelow; decide)
theorem shown_freshDue : ShownBytesWritten freshDue1 := by
  constructor <;> (unfold WrittenBelow; decide)

theorem plain_sglp : PlainMarker Magic.sglp := by unfold PlainMarker; decide
theorem clean_start : startsClean s1 := ⟨rfl, rfl⟩
theorem clean_fresh : startsClean fresh1 := ⟨rfl, rfl⟩

/-! Encodings and pseudo-instructions. -/

/-- DecodeAndEncodeAgree: an image with don't-care bits set, and one with an operand. -/
theorem test_witness_decode : decode [0b11111, 0x5A] = .ok .fsReset ∧
    encode .fsReset ≠ [0b11111, 0x5A] ∧ decode [0b00101, 0xFF] = .ok (.fsPayloadByte 0xFF) := by decide

/-- EdgeSelectsWellFormedPair: an edge with the publish strobe. -/
theorem test_witness_publish_edge : (edgeOps 0x206 due1).lv.hasPublish = true ∧
    (edgeOps 0x205 due1).lv.hasPublish = false ∧ (edgeOps 0x606 due1).lv.hasPublish = false := by decide

/-- DontCareInputsChangeNothing: reset, an error, no byte. -/
theorem test_witness_dontCare_reset : (0x800 : StimWord) ≠ 0xFFF ∧ swRst 0x800 = swRst 0xFFF ∧
    swRst 0x800 = true := by decide
theorem test_witness_dontCare_error : (0x400 : StimWord) ≠ 0x653 ∧ swRst 0x400 = swRst 0x653 ∧
    swErr 0x400 = swErr 0x653 ∧ swRd 0x400 = swRd 0x653 ∧ swErr 0x400 = true := by decide
theorem test_witness_dontCare_data : (0x100 : StimWord) ≠ 0x153 ∧ swRst 0x100 = swRst 0x153 ∧
    swErr 0x100 = swErr 0x153 ∧ swRd 0x100 = swRd 0x153 ∧ swValid 0x100 = swValid 0x153 ∧
    swValid 0x100 = false := by decide

/-- MessagePseudoExpands, MessageLayoutOnTheWire, at both ends of their ranges. -/
theorem test_witness_message : [1, 2, 3, 4, 5, (6 : Byte)].length = Config.standard.plen ∧
    (1 : Byte) ≠ 0 ∧ (255 : Byte) ≠ 0 ∧ 0 < Config.standard.nLeds ∧ 1 < Config.standard.nLeds ∧
    ledChannel [1, 2, 3, 4, 5, (6 : Byte)] 1 .blue = some 6 := by decide

/-! Steps and single operations. -/

/-- StepRunsDecodedOperations: a placed word, the free word, and an FS half that faults. -/
theorem test_witness_step_placed : ∃ (s pre : State) (w : StimWord), s.inputs = w :: pre.inputs ∧
    pre = { s with inputs := pre.inputs, cycle := s.cycle + 1 } ∧
    nextIs (exec (fsInstr w s.fs.state) pre) (fun _ => true) = true :=
  ⟨{ s1 with inputs := [0x253] }, { s1 with cycle := 1 }, 0x253, rfl, rfl, by decide⟩
theorem test_witness_step_free : ∃ (s pre : State) (w : StimWord), s.inputs = [] ∧ w = Config.freeStimulus s.cycle ∧
    pre = { s with cycle := s.cycle + 1 } :=
  ⟨s1, { s1 with cycle := 1 }, Config.freeStimulus 0, rfl, rfl, rfl⟩
theorem test_witness_step_fault : exec (.fsPayloadByte 1) (atPos .payload 0 3 0 s1) = .fault .slotOutsideStore :=
  rfl

/-- HalvesWriteDisjointRegisters: an FS operation that changes a slot byte, and an LV operation. -/
theorem test_witness_halves : nextIs (exec (.fsPayloadByte 9) lastByte1)
    (fun t => slotRead t 0 2 == some 9 && slotRead lastByte1 0 2 == none) = true ∧
    nextIs (exec .lvPublish lastByte1) (fun _ => true) = true := by decide

/-- SeekByteResult, its four clauses; SeekTableForDefaultMarker. -/
theorem test_witness_seek : Magic.sglp.bytes[3]? = some 0x50 ∧ Magic.sglp.bytes[0]? = some 0x53 ∧
    Magic.sglp.bytes[2]? = some 0x4C ∧ Magic.sglp.bytes[2]? ≠ some 0x53 ∧
    (atPos .seek 3 0 0 s2).fs.midx.toNat = 3 ∧ (atPos .seek 2 0 0 s2).fs.midx.toNat ≠ 3 ∧
    s2.cfg.magic = Magic.sglp ∧ s2.fs.state = .seek := by decide

/-- PayloadByteResult at the last slot and the last byte, and not at the last byte;
PayloadByteOutsideStoreStops at the first index and slot outside. -/
theorem test_witness_payload :
    let last := withCell 2 1 0 false false 0 false 0 (atPos .payload 0 2 0 s1)
    (last.lv.wIdx.toNat < 3 ∧ last.fs.pcnt < last.cfg.plen ∧ last.fs.pcnt = last.cfg.plen - 1) ∧
    (s1.lv.wIdx.toNat < 3 ∧ s1.fs.pcnt < s1.cfg.plen ∧ s1.fs.pcnt ≠ s1.cfg.plen - 1) ∧
    s1.cfg.plen ≤ (atPos .payload 0 3 0 s1).fs.pcnt ∧
    3 ≤ (withCell 3 1 0 false false 0 false 0 s1).lv.wIdx.toNat := by decide

/-- ChecksumByteResult, TryReadResult, PublishTryReadResult: both clauses of each. -/
theorem test_witness_flags : (6 : Byte) = due1.fs.sum ∧ (7 : Byte) ≠ due1.fs.sum ∧
    fresh1.lv.fresh = true ∧ seen1.lv.fresh = false := by decide

/-- ResetEdgeFromAnyState, ResetHeldAndReleased. -/
theorem test_witness_reset : swRst rstW = true ∧ nextIs (edge rstW freshDue1) (fun _ => true) = true ∧
    (∀ v ∈ [rstW, (0xFFF : StimWord)], swRst v = true) ∧ quiet 0x253 = true ∧ swValid 0x253 = true ∧
    swRst readW = false ∧ swRd readW = true := by decide

/-! Invariants and the sequencer. -/

/-- InvariantsHoldAtReset, EveryRunFromResetIsSafe: the smallest build. -/
theorem test_witness_build : (Config.ofLeds 1).wellFormed = true := by decide

/-- EveryStepKeepsR40, EveryStepKeepsTyped, EveryStepKeepsShownBytesWritten,
NoStimulusStopsTheBlock: an edge and a step from a state in the middle of a message. -/
theorem test_witness_invariants : R40 lastByte1 ∧ Typed lastByte1 ∧ ShownBytesWritten lastByte1 ∧
    (∃ t, edge 0x303 lastByte1 = .next t ∧ (t.fs.state == .checksum) = true) ∧
    R40 { lastByte1 with inputs := [0x203] } ∧ Typed { lastByte1 with inputs := [0x203] } ∧
    ShownBytesWritten { lastByte1 with inputs := [0x203] } ∧
    ∃ t, step { lastByte1 with inputs := [0x203] } = .next t ∧ (t.fs.state == .checksum) = true := by
  refine ⟨r40_lastByte, typed_lastByte, shown_lastByte, next_of (p := fun t => t.fs.state == .checksum) (by decide),
    by constructor <;> decide, by constructor <;> decide, by constructor <;> (unfold WrittenBelow; decide),
    next_of (p := fun t => t.fs.state == .checksum) (by decide)⟩

/-- The same three where a frame is fresh and a read hits beside a publish. -/
theorem test_witness_invariants_fresh : R40 freshDue1 ∧ ShownBytesWritten freshDue1 ∧
    ∃ t, edge 0x309 freshDue1 = .next t ∧ (t.lv.rSeen && t.lv.fresh) = true :=
  ⟨r40_freshDue, shown_freshDue, next_of (p := fun t => t.lv.rSeen && t.lv.fresh) (by decide)⟩

/-- PayloadCounterFitsItsWidth: PLEN = 6 has PCNT_W = 3, so n runs over 1 and 2. -/
theorem test_witness_pcntW : R40 s2 ∧ 1 ≤ 1 ∧ 2 < s2.cfg.pcntW := by
  refine ⟨by constructor <;> decide, le_refl 1, ?_⟩
  have : ¬ Nat.clog 2 6 ≤ 2 := by rw [Nat.clog_le_iff_le_pow (by decide)]; decide
  show 2 < max 1 (Nat.clog 2 6)
  omega

/-- SequencerFollowsItsTable, EventPortReports, PriorityWithinACycle, ReadAnsweredNextCycle: one edge
for each clause, with the state and event it leads to. -/
theorem test_witness_sequencer :
    nextIs (edge rstW due1) (fun t => t.fs.state == .seek && !t.fs.evValid) = true ∧
    nextIs (edge 0x506 due1) (fun t => t.fs.evKind == .transportError && t.lv.rdDone) = true ∧
    nextIs (edge idleW lastByte1) (fun t => t.fs.state == .payload && t.fs.pcnt == 2) = true ∧
    nextIs (edge 0x24C (atPos .seek 2 0 0 s1)) (fun t => t.fs.midx == 3) = true ∧
    nextIs (edge 0x250 (atPos .seek 3 0 0 s1)) (fun t => t.fs.state == .payload) = true ∧
    nextIs (edge 0x253 (atPos .seek 3 0 0 s1)) (fun t => t.fs.midx == 1) = true ∧
    nextIs (edge 0x250 (atPos .seek 0 0 0 s1)) (fun t => t.fs.midx == 0) = true ∧
    nextIs (edge 0x201 (atPos .payload 0 0 0 s1)) (fun t => t.fs.pcnt == 1) = true ∧
    nextIs (edge 0x203 lastByte1) (fun t => t.fs.state == .checksum) = true ∧
    nextIs (edge 0x206 due1) (fun t => t.fs.evValid && t.fs.evKind == .frameOk) = true ∧
    nextIs (edge 0x207 due1) (fun t => t.fs.evValid && t.fs.evKind == .checksumMismatch) = true ∧
    nextIs (edge 0x253 (atPos .illegal 0 0 0 s1)) (fun t => t.fs.state == .seek) = true ∧
    nextIs (edge readW fresh1) (fun t => t.lv.rdHit) = true := by decide

/-- MarkerBytesInsideMessageArePlain: in both states, a marker byte and another byte. -/
theorem test_witness_plain_bytes : lastByte1.fs.state = .payload ∧ due1.fs.state = .checksum ∧
    quiet 0x253 = true ∧ quiet 0x206 = true ∧ swValid 0x253 = true ∧ swValid 0x206 = true ∧
    nextIs (edge 0x253 lastByte1) (fun _ => true) = true ∧ nextIs (edge 0x206 lastByte1) (fun _ => true) = true ∧
    nextIs (edge 0x253 due1) (fun _ => true) = true ∧ nextIs (edge 0x206 due1) (fun _ => true) = true := by decide

/-- ReadPortShowsHeldFrame: a miss while a frame is shown, and a port that shows the fallback. -/
theorem test_witness_stable : R40 seen1 ∧ seen1.lv.rSeen = true ∧ s1.lv.rSeen = false ∧ swRst readW = false ∧
    ∃ t, edge readW seen1 = .next t ∧ (!t.lv.rdHit && t.lv.rSeen) = true :=
  ⟨r40_seen, rfl, rfl, by decide, next_of (p := fun t => !t.lv.rdHit && t.lv.rSeen) (by decide)⟩

/-- FrameByteInItsLane: the first and the last byte. -/
theorem test_witness_lane : seen1.cfg.wellFormed = true ∧ 0 < seen1.cfg.plen ∧ 2 < seen1.cfg.plen ∧
    (rdFrame seen1)[2]? = some 3 := by decide

/-! Whole messages. -/

/-- MessageRoundTrip: the message of payload 1, 2, 3 with an idle cycle and a read before it. -/
theorem test_witness_roundTrip : R40 s1 ∧ startsClean s1 ∧ [1, 2, (3 : Byte)].length = s1.cfg.plen ∧
    (∀ w ∈ idleW :: readW :: byteWords (message s1.cfg [1, 2, 3]), quiet w = true) ∧
    bytesOf (idleW :: readW :: byteWords (message s1.cfg [1, 2, 3])) = message s1.cfg [1, 2, 3] := by
  refine ⟨r40_start, clean_start, by decide, ?_, ?_⟩
  · intro w hw
    rcases List.mem_cons.1 hw with rfl | hw
    · decide
    · rcases List.mem_cons.1 hw with rfl | hw
      · decide
      · exact quiet_bytes _ w hw
  · rw [bytesOf_cons_none (by decide), bytesOf_cons_none (by decide), bytesOf_byteWords]

/-- OneFlippedBitIsCaught: bit 0 and bit 7 of a payload byte, and bit 7 of the checksum. -/
theorem test_witness_flip : R40 s1 ∧ startsClean s1 ∧ [1, 2, (3 : Byte)].length = s1.cfg.plen ∧
    ([1, 2, (3 : Byte)][0]? = some 1 ∧ [0, 2, (3 : Byte)] = [1, 2, 3].set 0 (1 ^^^ BitVec.twoPow 8 0)) ∧
    ([1, 2, (3 : Byte)][2]? = some 3 ∧ [1, 2, (0x83 : Byte)] = [1, 2, 3].set 2 (3 ^^^ BitVec.twoPow 8 7)) ∧
    (0x86 : Byte) = sum8 [1, 2, 3] ^^^ BitVec.twoPow 8 7 ∧
    ∀ (q : List Byte) (k : Byte), ∃ ws, (∀ w ∈ ws, quiet w = true) ∧ bytesOf ws = messageWith s1.cfg q k :=
  ⟨r40_start, clean_start, by decide, by decide, by decide, by decide,
    fun q k => ⟨byteWords (messageWith s1.cfg q k), quiet_bytes _, bytesOf_byteWords _⟩⟩

/-- SameSumPassesTheChecksum: its three parts. -/
theorem test_witness_sameSum : R40 s1 ∧ startsClean s1 ∧ [3, 2, (1 : Byte)].length = s1.cfg.plen ∧
    sum8 [3, 2, 1] = sum8 [1, 2, 3] ∧
    (∀ w ∈ byteWords (messageWith s1.cfg [3, 2, 1] (sum8 [1, 2, 3])), quiet w = true) ∧
    bytesOf (byteWords (messageWith s1.cfg [3, 2, 1] (sum8 [1, 2, 3]))) =
      messageWith s1.cfg [3, 2, 1] (sum8 [1, 2, 3]) ∧
    [3, 2, (1 : Byte)].Perm [1, 2, 3] ∧ 0 ≠ 2 ∧ [1, 2, (3 : Byte)][0]? = some 1 ∧ [1, 2, (3 : Byte)][2]? = some 3 :=
  ⟨r40_start, clean_start, by decide, by decide, quiet_bytes _, bytesOf_byteWords _, by decide, by decide,
    by decide, by decide⟩

/-- SeekStopsAtFirstMarker: garbage without a marker, then D-SK6's bytes up to the marker's last. -/
theorem test_witness_firstMarker : startsClean s1 ∧ PlainMarker s1.cfg.magic ∧
    (∀ w ∈ byteWords [0x53, 0x47, 0x53, 0x47, 0x4C], quiet w = true) ∧
    ¬ MarkerIn s1.cfg.magic (bytesOf (byteWords [0x53, 0x47, 0x53, 0x47, 0x4C])) ∧
    quiet (lineWord (.byte 0x50)) = true ∧ swValid (lineWord (.byte 0x50)) = true ∧
    FirstMarkerEnds s1.cfg.magic
      (bytesOf (byteWords [0x53, 0x47, 0x53, 0x47, 0x4C] ++ [lineWord (.byte 0x50)])) := by
  refine ⟨clean_start, plain_sglp, quiet_bytes _, ?_, by decide, by decide, ?_⟩
  · rw [bytesOf_byteWords]; unfold MarkerIn; decide
  · rw [show byteWords [0x53, 0x47, 0x53, 0x47, 0x4C] ++ [lineWord (.byte 0x50)] =
      byteWords [0x53, 0x47, 0x53, 0x47, 0x4C, 0x50] from rfl, bytesOf_byteWords]
    unfold FirstMarkerEnds MarkerIn; decide

/-- ResyncAfterGarbage: S3's two garbage bytes before a message, with a right and a wrong checksum. -/
theorem test_witness_resync : R40 s1 ∧ startsClean s1 ∧ PlainMarker s1.cfg.magic ∧
    [1, 2, (3 : Byte)].length = s1.cfg.plen ∧
    FirstMarkerEnds s1.cfg.magic ([0x53, 0x10] ++ s1.cfg.magic.bytes) ∧ (7 : Byte) ≠ sum8 [1, 2, 3] ∧
    ∀ k : Byte, ∃ ws, (∀ w ∈ ws, quiet w = true) ∧ bytesOf ws = [0x53, 0x10] ++ messageWith s1.cfg [1, 2, 3] k :=
  ⟨r40_start, clean_start, plain_sglp, by decide, by unfold FirstMarkerEnds MarkerIn; decide, by decide,
    fun k => ⟨byteWords ([0x53, 0x10] ++ messageWith s1.cfg [1, 2, 3] k), quiet_bytes _, bytesOf_byteWords _⟩⟩

/-- OverlappingMarkerIsMissed: the build of D-SK8. -/
theorem test_witness_overlap :
    let s := State.resetOf { Config.standard with magic := { m0 := 0x41, m1 := 0x41, m2 := 0x42, m3 := 0x43 } }
    s.cfg.magic = { m0 := 0x41, m1 := 0x41, m2 := 0x42, m3 := 0x43 } ∧ startsClean s :=
  ⟨rfl, rfl, rfl⟩

/-- TransportErrorDropsTheMessage: from PAYLOAD and from CHECKSUM, a message following. -/
theorem test_witness_transport : R40 lastByte1 ∧ lastByte1.fs.state = .payload ∧ R40 due1 ∧
    due1.fs.state = .checksum ∧ swRst 0x606 = false ∧ swErr 0x606 = true ∧ PlainMarker due1.cfg.magic ∧
    [1, 2, (3 : Byte)].length = due1.cfg.plen ∧ FirstMarkerEnds due1.cfg.magic ([] ++ due1.cfg.magic.bytes) ∧
    (∀ v ∈ byteWords (message due1.cfg [1, 2, 3]), quiet v = true) ∧
    bytesOf (byteWords (message due1.cfg [1, 2, 3])) = [] ++ message due1.cfg [1, 2, 3] :=
  ⟨r40_lastByte, rfl, r40_due, rfl, by decide, by decide, plain_sglp, by decide,
    by unfold FirstMarkerEnds MarkerIn; decide, quiet_bytes _, bytesOf_byteWords _⟩

/-- All of a message but its checksum byte, edge by edge. -/
theorem run_to_due : feed (msg123.take 7) s1 = .next due1 :=
  run_step (goes_to (u := atPos .seek 1 0 0 s1) (by decide)) <|
  run_step (goes_to (u := atPos .seek 2 0 0 s1) (by decide)) <|
  run_step (goes_to (u := atPos .seek 3 0 0 s1) (by decide)) <|
  run_step (goes_to (u := atPos .payload 0 0 0 s1) (by decide)) <|
  run_step (goes_to (u := { atPos .payload 0 1 1 s1 with slots := [(0, 1)] }) (by decide)) <|
  run_step (goes_to (u := lastByte1) (by decide)) <| run_step (goes_to (u := due1) (by decide)) rfl

theorem due_to_pub : edge 0x206 due1 = .next pub1 := goes_to (by decide)
theorem pub_to_read : edge readW pub1 = .next read1 := goes_to (by decide)

theorem run_to_pub : feed msg123 s1 = .next pub1 := run_then run_to_due due_to_pub

/-- NoFrameBeforeAWholeMessage: PLEN + 4 bytes, all of a message but its checksum byte. -/
theorem test_witness_tooFewBytes : feed (msg123.take 7) (State.resetOf (Config.ofLeds 1)) = .next due1 ∧
    ((msg123.take 7).filter swValid).length < (Config.ofLeds 1).plen + 5 :=
  ⟨run_to_due, by decide⟩

/-! The cell over time. -/

/-- PublishedFrameIsReadNext: a publish, and a read on the next edge. -/
theorem test_witness_readNext : R40 due1 ∧ edge 0x206 due1 = .next pub1 ∧ publishedOn pub1 = true ∧
    feed [] pub1 = .next pub1 ∧ swRst readW = false ∧ swRd readW = true ∧ edge readW pub1 = .next read1 ∧
    read1.lv.rdHit = true :=
  ⟨r40_due, due_to_pub, rfl, rfl, by decide, by decide, pub_to_read, rfl⟩

/-- HitsAreMonotonic: a hit beside a publish, and a second hit on the next edge. -/
theorem test_witness_twoHits : edge 0x309 freshDue1 = .next both1 ∧ both1.lv.rdHit = true ∧
    feed [] both1 = .next both1 ∧ edge readW both1 = .next reread1 ∧ reread1.lv.rdHit = true :=
  ⟨goes_to (by decide), rfl, rfl, goes_to (by decide), rfl⟩

/-- BurstCollapsesToNewest: one message, and two. -/
theorem test_witness_burst : R40 s1 ∧ startsClean s1 ∧
    (∀ q ∈ [[1, 2, 3]] ++ [[4, 5, (6 : Byte)]], q.length = s1.cfg.plen) ∧
    ∀ (ps : List (List Byte)) (p : List Byte), ∃ ws, (∀ w ∈ ws, quiet w = true ∧ swRd w = false) ∧
      bytesOf ws = (ps ++ [p]).flatMap (message s1.cfg) :=
  ⟨r40_start, clean_start, by decide, fun ps p => ⟨byteWords ((ps ++ [p]).flatMap (message s1.cfg)),
    quiet_byteWords _, bytesOf_byteWords _⟩⟩

/-- ShownFrameIsAnAcceptedPayload, FetchGetsLatestOrFallback, FreshIsTheReadersCursor: from reset
through a message, then a read; and a read with nothing accepted. -/
theorem test_witness_runs : (Config.ofLeds 1).wellFormed = true ∧
    feed msg123 (State.resetOf (Config.ofLeds 1)) = .next pub1 ∧ swRst readW = false ∧ swRd readW = true ∧
    edge readW pub1 = .next read1 ∧ feed (msg123 ++ [readW]) (State.resetOf (Config.ofLeds 1)) = .next read1 ∧
    read1.ports.rdHas = true ∧ feed [] (State.resetOf (Config.ofLeds 1)) = .next s1 ∧
    ∃ u, edge readW s1 = .next u ∧ (rdFrame u == s1.cfg.fallback) = true :=
  ⟨by decide, run_to_pub, by decide, by decide, pub_to_read, run_then run_to_pub pub_to_read, rfl, rfl,
    next_of (p := fun u => rdFrame u == s1.cfg.fallback) (by decide)⟩

/-- GenerationDecidesNothing: two states that differ in `gen` alone. -/
theorem test_witness_forgetGen : fresh1 ≠ { fresh1 with lv := { fresh1.lv with gen := 7 } } ∧
    forgetGen fresh1 = forgetGen { fresh1 with lv := { fresh1.lv with gen := 7 } } ∧
    nextIs (feed [0x309] freshDue1) (fun _ => true) = true := by decide

/-- HiddenSlotBytesNeverShow: two states that differ in a byte of the back slot not yet taken. -/
theorem test_witness_hidden : R40 lastByte1 ∧ lastByte1 ≠ { lastByte1 with slots := lastByte1.slots ++ [(2, 9)] } ∧
    AgreeOnShown lastByte1 { lastByte1 with slots := lastByte1.slots ++ [(2, 9)] } ∧
    nextIs (feed [0x203, 0x206] lastByte1) (fun _ => true) = true :=
  ⟨r40_lastByte, by decide, ⟨rfl, rfl, rfl, by decide, by decide, by decide⟩, by decide⟩

/-- CellRefinesTransactionView: a publish beside a hit, a payload write, and a reset. -/
theorem test_witness_refines : R40 freshDue1 ∧ nextIs (edge 0x309 freshDue1) (fun _ => true) = true ∧
    R40 lastByte1 ∧ nextIs (edge 0x203 lastByte1) (fun _ => true) = true ∧
    nextIs (edge rstW freshDue1) (fun _ => true) = true :=
  ⟨r40_freshDue, by decide, r40_lastByte, by decide, by decide⟩

end Sys2Proof.Tests
end

section
/-! The lanes of `rd_frame` (R64): a packed byte sequence gives back each of its bytes. -/

namespace Sys2Proof.Machine

theorem Config.fallback_length {c : Config} (h : c.wellFormed = true) : c.fallback.length = c.plen := by
  simp only [Config.wellFormed, Bool.and_eq_true, decide_eq_true_eq] at h
  exact h.2

/-- The shown frame has PLEN bytes, whether it is the held frame or the fallback (R175). -/
theorem rdFrame_length {s : State} (h : s.cfg.wellFormed = true) : (rdFrame s).length = s.cfg.plen := by
  unfold rdFrame
  split
  · exact slotFrame_length s _
  · exact Config.fallback_length h

/-- The byte packed first fills lane 0 and no other; the rest begins one lane higher. -/
theorem testBit_packLanes_cons (b : Byte) (rest : List Byte) (j : Nat) :
    (packLanes (b :: rest)).testBit j = if j < 8 then b.getLsbD j else (packLanes rest).testBit (j - 8) := by
  have hb : b.toNat < 2 ^ 8 := b.isLt
  rw [packLanes, Nat.add_comm]
  exact Nat.testBit_two_pow_mul_add _ hb j

/-- Bit `i` of lane `k` is bit `i` of byte `k`. -/
theorem testBit_packLanes {bs : List Byte} {k i : Nat} (hk : k < bs.length) (hi : i < 8) :
    (packLanes bs).testBit (8 * k + i) = bs[k].getLsbD i := by
  induction bs generalizing k with
  | nil => simp at hk
  | cons b rest ih =>
    rw [testBit_packLanes_cons]
    cases k with
    | zero => simp [hi]
    | succ k =>
      have hlane : 8 * (k + 1) + i - 8 = 8 * k + i := by omega
      rw [if_neg (by omega), hlane, ih (by simpa using hk), List.getElem_cons_succ]

/-- On a bus that reaches the end of lane `k`, that lane holds byte `k`. -/
theorem extractLsb'_packLanes {bs : List Byte} {k n : Nat} (hk : k < bs.length) (hn : 8 * k + 8 ≤ n) :
    (BitVec.ofNat n (packLanes bs)).extractLsb' (8 * k) 8 = bs[k] := by
  refine BitVec.eq_of_getLsbD_eq fun i hi => ?_
  have hbus : 8 * k + i < n := by omega
  simp only [BitVec.getLsbD_extractLsb', BitVec.getLsbD_ofNat, hi, hbus, decide_true, Bool.true_and]
  exact testBit_packLanes hk hi

/-- Settles O42: the shown frame has PLEN bytes, so each has a lane on the bus, and the lane holds it. -/
theorem frameByteInItsLane : Obligations.FrameByteInItsLane := by
  intro s k hwf hk
  have hlen : k < (rdFrame s).length := by rwa [rdFrame_length hwf]
  have hlane : (rdFrameBus s).extractLsb' (8 * k) 8 = (rdFrame s)[k] :=
    extractLsb'_packLanes hlen (by omega)
  rw [hlane, List.getElem?_eq_getElem hlen]

end Sys2Proof.Machine
end

section
/-! The frame synchronizer's operations (R121 to R129): what each leaves in every register and in the
slot store. First what they share, then one equation or one equation a branch for each operation. -/

namespace Sys2Proof.Machine

variable {s t : State} {b : Byte}

/-! What the operations share. -/

theorem fsLeaves_of_exec {i : Instr} (hi : i.isFs = true) (h : exec i s = .next t) : FsLeaves s t := by
  rw [exec_fs_next hi h]
  constructor <;> rfl

theorem sameBytes_of_slots (hc : t.cfg = s.cfg) (hm : t.slots = s.slots) : SameBytes s t :=
  slotRead_congr hc hm

/-- `bytes` lists the marker that the 2-bit index selects from (R98). -/
theorem magic_bytes_getElem?_eq_some {m : Magic} (i : MarkerIdx) :
    m.bytes[i.toNat]? = some b ↔ b = magicAt m i := by
  have hget : m.bytes[i.toNat]? = some (magicAt m i) := by
    obtain rfl | rfl | rfl | rfl : i = 0 ∨ i = 1 ∨ i = 2 ∨ i = 3 := by revert i; decide
    all_goals rfl
  rw [hget, Option.some_inj, eq_comm]

/-! The rows of R94 with don't-care bits: the rows before them in the decoder do not match. -/

theorem decodeFs_of_terrKey {k : FsKey} (b : Byte) (hk : k &&& 0b11000 = 0b01000) :
    decodeFs k b = .fsTerr := by
  have hrst : k &&& 0b10000 ≠ 0b10000 := by revert k; decide
  rw [decodeFs, if_neg hrst, if_pos hk]

theorem decodeFs_of_illKey {k : FsKey} (b : Byte) (hk : k &&& 0b11011 = 0b00011) :
    decodeFs k b = .fsIll := by
  have hrst : k &&& 0b10000 ≠ 0b10000 := by revert k; decide
  have hterr : k &&& 0b11000 ≠ 0b01000 := by revert k; decide
  rw [decodeFs, if_neg hrst, if_neg hterr, if_pos hk]

/-! FS.SEEK_BYTE, one equation a branch of R124. -/

theorem exec_seekByte_markerDone (hb : b = markerOperand s) (hk : s.fs.midx = 3) :
    exec (.fsSeekByte b) s = .next s.enterPayload.noEvent := by
  rw [exec, execFsSeekByte, if_pos hb, if_pos hk]

theorem exec_seekByte_markerNext (hb : b = markerOperand s) (hk : s.fs.midx ≠ 3) :
    exec (.fsSeekByte b) s = .next (s.setMidx (s.fs.midx + 1)).noEvent := by
  rw [exec, execFsSeekByte, if_pos hb, if_neg hk]

theorem exec_seekByte_mismatch (hb : b ≠ markerOperand s) :
    exec (.fsSeekByte b) s = .next (s.setMidx (if b = markerStart s then 1 else 0)).noEvent := by
  rw [exec, execFsSeekByte, if_neg hb]
  split <;> rfl

/-- Short of the last marker byte, counting a match does not wrap `midx` (R36). -/
theorem midx_succ_toNat {i : MarkerIdx} (h : i ≠ 3) : (i + 1).toNat = i.toNat + 1 := by
  revert i; decide

/-- Settles O15: R124's three outcomes are a complete marker, a longer partial match and a mismatch;
each is one branch equation, and the statement's `MAGIC[midx]` is the operand the branch tests. -/
theorem seekByteResult : Obligations.SeekByteResult := by
  refine ⟨fun b => rfl, fun s b => ?_⟩
  have hmatch : s.cfg.magic.bytes[s.fs.midx.toNat]? = some b ↔ b = markerOperand s :=
    magic_bytes_getElem?_eq_some s.fs.midx
  have hstart : s.cfg.magic.bytes[0]? = some b ↔ b = markerStart s :=
    magic_bytes_getElem?_eq_some 0
  have hlast : s.fs.midx.toNat = 3 ↔ s.fs.midx = 3 := BitVec.toNat_inj (y := 3#2)
  simp only [hmatch, hstart, hlast, ne_eq]
  by_cases hb : b = markerOperand s
  · by_cases hk : s.fs.midx = 3
    · have hx := exec_seekByte_markerDone hb hk
      exact ⟨_, hx, fsLeaves_of_exec rfl hx, sameBytes_of_slots rfl rfl, rfl, rfl, rfl, rfl,
        fun _ _ => ⟨rfl, rfl, rfl, rfl⟩, fun _ h => absurd hk h, fun h => absurd hb h⟩
    · have hx := exec_seekByte_markerNext hb hk
      exact ⟨_, hx, fsLeaves_of_exec rfl hx, sameBytes_of_slots rfl rfl, rfl, rfl, rfl, rfl,
        fun _ h => absurd h hk, fun _ _ => ⟨midx_succ_toNat hk, rfl, rfl, rfl⟩, fun h => absurd hb h⟩
  · have hx := exec_seekByte_mismatch hb
    exact ⟨_, hx, fsLeaves_of_exec rfl hx, sameBytes_of_slots rfl rfl, rfl, rfl, rfl, rfl,
      fun h => absurd h hb, fun h => absurd h hb, fun _ => ⟨rfl, rfl, rfl, rfl⟩⟩

/-! FS.PAYLOAD_BYTE at a byte of the slot store. -/

theorem exec_payloadByte {a : Nat} (ha : slotAddr s.cfg s.lv.wIdx s.fs.pcnt = some a) (b : Byte) :
    exec (.fsPayloadByte b) s = .next { s with
      fs := { s.fs with
        state := if s.fs.pcnt + 1 = s.cfg.plen then .checksum else s.fs.state
        pcnt := if s.fs.pcnt + 1 = s.cfg.plen then 0 else s.fs.pcnt + 1
        sum := sumWith s b
        evValid := false }
      slots := Memory.write s.slots a b } := by
  simp only [exec, execFsPayloadByte, slotWrite, ha, Option.map_some, lastPayloadByte, beq_iff_eq]
  split <;> rfl

/-- Settles O17: one equation gives every register and the one store; the slot clauses are the store's
own laws at the address computed for `(w_idx, pcnt)`. -/
theorem payloadByteResult : Obligations.PayloadByteResult := by
  refine ⟨fun b => rfl, fun s b hw hp => ?_⟩
  have ha : slotAddr s.cfg s.lv.wIdx s.fs.pcnt = some (slotKey s.cfg s.lv.wIdx s.fs.pcnt) :=
    slotAddr_isSome hw hp
  have hlast : s.fs.pcnt + 1 = s.cfg.plen ↔ s.fs.pcnt = s.cfg.plen - 1 := by omega
  have hx := exec_payloadByte ha b
  refine ⟨_, hx, fsLeaves_of_exec rfl hx, BitVec.toNat_add .., rfl, fun h => ?_, fun h => ?_, rfl, rfl, rfl,
    rfl, ⟨_, ha⟩, fun a ha' => ?_, slotRead_after_same _ s.lv ha b,
    fun j k => slotRead_after_other _ s.lv ha b⟩
  · exact ⟨if_pos (hlast.2 h), if_pos (hlast.2 h)⟩
  · exact ⟨if_neg (mt hlast.1 h), if_neg (mt hlast.1 h)⟩
  · obtain rfl := Option.some_inj.1 (ha.symm.trans ha')
    exact ⟨read_write_same .., fun a' hne => read_write_other _ _ hne⟩

/-! The idle operations. -/

/-- Settles O14: all three are `noEvent`, which writes `ev_valid` alone. -/
theorem idleKeepsEverythingButEventStrobe : Obligations.IdleKeepsEverythingButEventStrobe := by
  refine ⟨fun b => ⟨rfl, rfl, rfl⟩, fun s i hi => ?_⟩
  have hidle : i.isFs = true ∧ exec i s = .next s.noEvent ∧ publishStrobe i s = false := by
    simp only [List.mem_cons, List.not_mem_nil, or_false] at hi
    obtain rfl | rfl | rfl := hi
    all_goals exact ⟨rfl, rfl, rfl⟩
  obtain ⟨hfs, hx, hpub⟩ := hidle
  exact ⟨_, hx, fsLeaves_of_exec hfs hx, sameBytes_of_slots rfl rfl, rfl, rfl, rfl, rfl, rfl, rfl, rfl, hpub⟩

/-! FS.CHECKSUM_BYTE. -/

theorem checksumMatches_iff : checksumMatches s b = true ↔ b = s.fs.sum := beq_iff_eq

theorem exec_checksumByte (s : State) (b : Byte) :
    exec (.fsChecksumByte b) s = .next (s.backToSeek.reportEvent
      (if b = s.fs.sum then .frameOk else .checksumMismatch)
      (if b = s.fs.sum then nextGen s else s.lv.gen)) := by
  simp only [exec, execFsChecksumByte, checksumMatches_iff]
  split <;> rfl

/-- Settles O19: match and mismatch seek again alike; they differ in the event reported. -/
theorem checksumByteResult : Obligations.ChecksumByteResult := by
  refine ⟨fun b => rfl, fun s b => ?_⟩
  have hx := exec_checksumByte s b
  exact ⟨_, hx, fsLeaves_of_exec rfl hx, sameBytes_of_slots rfl rfl, rfl, rfl, rfl, rfl, rfl,
    checksumMatches_iff, fun h => ⟨if_pos h, if_pos h⟩, fun h => ⟨if_neg h, if_neg h⟩⟩

/-! FS.TERR and FS.ILL. -/

/-- Settles O20: every key with `rst = 0` and `in_err = 1` takes the error, from any state. -/
theorem transportErrorResult : Obligations.TransportErrorResult := by
  refine ⟨fun k b => decodeFs_of_terrKey b, fun s => ?_⟩
  have hx : exec .fsTerr s = .next (takeError .transportError s) := rfl
  exact ⟨_, hx, fsLeaves_of_exec rfl hx, sameBytes_of_slots rfl rfl, takeError_fs s _, rfl⟩

/-- Settles O21: back to SEEK from a clean start, with no event. -/
theorem illegalStateRecovers : Obligations.IllegalStateRecovers := by
  refine ⟨fun k b => decodeFs_of_illKey b, fun s => ?_⟩
  have hx : exec .fsIll s = .next s.backToSeek.noEvent := rfl
  exact ⟨_, hx, fsLeaves_of_exec rfl hx, sameBytes_of_slots rfl rfl, rfl, rfl⟩

end Sys2Proof.Machine
end

section
/-! The latest-value cell's operations (R162 to R167): what each leaves in the cell's registers and on
the read port. First what they share, then one equation or one equation a branch for each operation. -/

namespace Sys2Proof.Machine

variable {s t : State}

/-! What the operations share. -/

theorem lvLeaves_of_exec {i : Instr} (hi : i.isFs = false) (h : exec i s = .next t) : LvLeaves s t := by
  obtain ⟨l, hl⟩ := exec_lv_next hi s
  obtain rfl := Host.Outcome.next.inj (hl.symm.trans h)
  exact ⟨rfl, rfl, sameBytes_of_slots rfl rfl, rfl, rfl⟩

theorem LvLeaves.slotFrame_kept (h : LvLeaves s t) (i : SlotIdx) : slotFrame t i = slotFrame s i := by
  simp only [slotFrame, h.cfg]
  exact List.map_congr_left fun k _ => by simp only [slotByte, h.bytes i k, h.cfg]

/-! The selector of the read port (R175). -/

theorem rdFrame_of_seen (h : s.lv.rSeen = true) : rdFrame s = slotFrame s s.lv.rIdx := if_pos h

theorem rdFrame_of_unseen (h : s.lv.rSeen = false) : rdFrame s = s.cfg.fallback := by simp [rdFrame, h]

/-- The port shows the same frame while the reader keeps its slot and that slot its bytes. -/
theorem rdFrame_congr (hc : t.cfg = s.cfg) (hs : t.lv.rSeen = s.lv.rSeen) (hr : t.lv.rIdx = s.lv.rIdx)
    (hf : slotFrame t s.lv.rIdx = slotFrame s s.lv.rIdx) : rdFrame t = rdFrame s := by
  simp only [rdFrame, hc, hs, hr, hf]

theorem LvLeaves.rdFrame_kept (h : LvLeaves s t) (hs : t.lv.rSeen = s.lv.rSeen)
    (hr : t.lv.rIdx = s.lv.rIdx) : rdFrame t = rdFrame s :=
  rdFrame_congr h.cfg hs hr (h.slotFrame_kept _)

/-- After a hit the port shows what the slot the reader took held before. -/
theorem LvLeaves.rdFrame_taken (h : LvLeaves s t) {i : SlotIdx} (hs : t.lv.rSeen = true)
    (hr : t.lv.rIdx = i) : rdFrame t = slotFrame s i := by
  rw [rdFrame_of_seen hs, hr, h.slotFrame_kept]

/-! LV.TRYREAD and LV.PUBLISH_TRYREAD, one equation for a hit and one for a miss (R165, R167). -/

theorem exec_tryread_hit (hf : s.lv.fresh = true) :
    exec .lvTryread s = .next (State.answerRead true { s with
      lv := { s.lv with rIdx := s.lv.mIdx, mIdx := s.lv.rIdx, fresh := false, rSeen := true,
                        rGen := s.lv.gen } }) := by
  rw [exec, execLvTryread, tryRead, if_pos hf]

theorem exec_tryread_miss (hf : s.lv.fresh = false) : exec .lvTryread s = .next (s.answerRead false) := by
  rw [exec, execLvTryread, tryRead, if_neg (Bool.eq_false_iff.1 hf)]

theorem exec_publishTryread_hit (hf : s.lv.fresh = true) :
    exec .lvPublishTryread s = .next ((markPublished (rotate s)).answerRead true) := by
  rw [exec, execLvPublishTryread, if_pos hf]

theorem exec_publishTryread_miss (hf : s.lv.fresh = false) :
    exec .lvPublishTryread s = .next ((markPublished (exchangeBackMiddle s)).answerRead false) := by
  rw [exec, execLvPublishTryread, if_neg (Bool.eq_false_iff.1 hf)]

/-- Settles O25: the old `fresh` decides between the rotation and the exchange of R167; `markPublished`
comes after either and leaves the reader's registers. -/
theorem publishTryReadResult : Obligations.PublishTryReadResult := by
  refine ⟨rfl, fun s => ?_⟩
  cases hf : s.lv.fresh with
  | true =>
    have hx := exec_publishTryread_hit hf
    have hl := lvLeaves_of_exec rfl hx
    exact ⟨_, hx, hl, rfl, rfl, rfl, rfl, rfl, rfl,
      fun _ => ⟨rfl, rfl, rfl, rfl, hl.rdFrame_taken rfl rfl⟩, nofun⟩
  | false =>
    have hx := exec_publishTryread_miss hf
    have hl := lvLeaves_of_exec rfl hx
    exact ⟨_, hx, hl, rfl, rfl, rfl, rfl, rfl, rfl,
      nofun, fun _ => ⟨rfl, rfl, rfl, rfl, hl.rdFrame_kept rfl rfl⟩⟩

/-- Settles O23: a hit exchanges the middle and reader slots, a miss writes the answer alone. -/
theorem tryReadResult : Obligations.TryReadResult := by
  refine ⟨rfl, fun s => ?_⟩
  cases hf : s.lv.fresh with
  | true =>
    have hx := exec_tryread_hit hf
    have hl := lvLeaves_of_exec rfl hx
    exact ⟨_, hx, hl, rfl, rfl, rfl, rfl, rfl, rfl,
      fun _ => ⟨rfl, rfl, rfl, rfl, hl.rdFrame_taken rfl rfl⟩, nofun⟩
  | false =>
    have hx := exec_tryread_miss hf
    have hl := lvLeaves_of_exec rfl hx
    exact ⟨_, hx, hl, rfl, rfl, rfl, rfl, rfl, hf,
      nofun, fun _ => ⟨rfl, rfl, rfl, rfl, hl.rdFrame_kept rfl rfl⟩⟩

/-- Settles O22: LV.IDLE is `noAnswer`, which writes the read's answer alone. -/
theorem cellIdleResult : Obligations.CellIdleResult := by
  refine ⟨rfl, fun s => ?_⟩
  have hx : exec .lvIdle s = .next s.noAnswer := rfl
  have hl := lvLeaves_of_exec rfl hx
  exact ⟨_, hx, hl, noAnswer_lv s, hl.rdFrame_kept rfl rfl⟩

/-- Settles O24: LV.PUBLISH is `publish` of R162 with no read answered. -/
theorem publishResult : Obligations.PublishResult := by
  refine ⟨rfl, fun s => ?_⟩
  have hx : exec .lvPublish s = .next (publish s).noAnswer := rfl
  exact ⟨_, hx, lvLeaves_of_exec rfl hx, by rw [noAnswer_lv, publish_lv, nextGen, addG]⟩

end Sys2Proof.Machine
end

section
/-! The read port over an edge (R175): the reader's slot is not written, and without a hit the reader's
registers stay. -/

namespace Sys2Proof.Machine

variable {w : StimWord} {s t : State}

/-- No edge changes a byte of a slot other than the back slot. -/
theorem slotRead_edge_other (h : edge w s = .next t) {j : SlotIdx} (hj : j ≠ s.lv.wIdx) (k : Nat) :
    slotRead t j k = slotRead s j k := by
  obtain ⟨-, rfl⟩ | ⟨-, f, m, pub, l, hfs, -, rfl⟩ := edge_next h
  · exact slotRead_congr rfl rfl j k
  · obtain rfl | ⟨a, -, ha, rfl⟩ := hfs.slots_cases
    · exact slotRead_congr rfl rfl j k
    · exact slotRead_after_other f l ha _ (by simp [hj])

/-- Only a hit writes the reader's registers. -/
theorem LvCase.reader_of_noHit {pub rd : Bool} {l : LvRegs} (h : LvCase s pub rd l)
    (hhit : l.rdHit = false) : l.rIdx = s.lv.rIdx ∧ l.rSeen = s.lv.rSeen ∧ l.rGen = s.lv.rGen := by
  cases h with
  | hit => cases hhit
  | publishHit => cases hhit
  | _ => exact ⟨rfl, rfl, rfl⟩

/-- Settles O41: by (I-a) the reader's slot is not the back slot, which is the only one an edge can
write; so without a hit neither operand of the port's selector changes. -/
theorem readPortShowsHeldFrame : Obligations.ReadPortShowsHeldFrame := by
  refine ⟨fun s => ⟨rfl, rfl, rdFrame_of_seen, rdFrame_of_unseen⟩, fun w s t hinv h => ?_⟩
  obtain ⟨-, -, -, -, hwr, -⟩ := hinv.indices
  refine ⟨slotRead_edge_other h hwr.symm, fun hrst hhit => ?_⟩
  obtain ⟨hrst', -⟩ | ⟨-, f, m, pub, l, hfs, hlv, rfl⟩ := edge_next h
  · simp [hrst] at hrst'
  · obtain ⟨hidx, hseen, hgen⟩ := hlv.reader_of_noHit hhit
    exact ⟨rdFrame_congr rfl hseen hidx (hfs.slotFrame_other hwr.symm), hseen, hgen⟩

end Sys2Proof.Machine
end

section
/-! The event port and the priority within a cycle (R200, R201, R210): which event an edge reports and
with which generation, and which two operations a stimulus word selects. -/

namespace Sys2Proof.Machine

variable {w : StimWord} {s : State}

/-! The cell's half, by the publish strobe alone. -/

/-- Only a publish counts the generation up, whether or not a read comes with it (R162, R167). -/
theorem LvCase.gen_eq {pub rd : Bool} {l : LvRegs} (h : LvCase s pub rd l) :
    l.gen = if pub then nextGen s else s.lv.gen := by
  cases h with
  | idle hp | hit hp | miss hp | publish hp | publishHit hp | publishMiss hp => rw [hp]; rfl

/-- Without a publish the back slot, the generation and `has_value` stay, whatever the read does. -/
theorem LvCase.kept_of_noPublish {rd : Bool} {l : LvRegs} (h : LvCase s false rd l) :
    l.gen = s.lv.gen ∧ l.hasValue = s.lv.hasValue ∧ l.wIdx = s.lv.wIdx := by
  cases h with
  | idle | hit | miss => exact ⟨rfl, rfl, rfl⟩
  | publish hp | publishHit hp | publishMiss hp => cases hp

/-! The event of an edge. -/

/-- When R200 has an edge outside reset report an event: a transport error, or the byte that completes
a message. -/
def EventDue (w : StimWord) (s : State) : Prop :=
  swErr w = true ∨ swValid w = true ∧ s.fs.state = .checksum

/-- The cause that R201 has such an edge report. -/
def dueKind (w : StimWord) (s : State) : EvKind :=
  if swErr w then .transportError else if swData w = s.fs.sum then .frameOk else .checksumMismatch

/-- Each cause has its own condition: a transport error comes first, then the checksum decides. -/
theorem dueKind_iff (w : StimWord) (s : State) :
    (dueKind w s = .transportError ↔ swErr w = true) ∧
    (dueKind w s = .frameOk ↔ swErr w = false ∧ swData w = s.fs.sum) ∧
    (dueKind w s = .checksumMismatch ↔ swErr w = false ∧ swData w ≠ s.fs.sum) := by
  cases herr : swErr w with
  | true => simp [dueKind, herr]
  | false => by_cases hb : swData w = s.fs.sum <;> simp [dueKind, herr, hb]

/-- Where an event is due, the FS reports its cause and the generation after the edge, starts clean, and
raises the publish strobe exactly for FRAME_OK. -/
theorem FsCase.reports {f : FsRegs} {m : Memory} {pub : Bool} (h : FsCase w s f m pub)
    (hdue : EventDue w s) : f.evValid = true ∧ f.evKind = dueKind w s ∧
      f.evGen = (if pub then nextGen s else s.lv.gen) ∧ (pub = true ↔ dueKind w s = .frameOk) ∧
      f.state = .seek ∧ f.midx = 0 := by
  cases h with
  | terr he => simp [dueKind, he]
  | accept he _ _ hb => simp [dueKind, he, hb]
  | reject he _ _ hb => simp [dueKind, he, hb]
  | _ => simp_all [EventDue]

/-- Where none is due, the FS reports none and keeps the last event's cause and generation. -/
theorem FsCase.silent {f : FsRegs} {m : Memory} {pub : Bool} (h : FsCase w s f m pub)
    (hdue : ¬ EventDue w s) :
    f.evValid = false ∧ f.evKind = s.fs.evKind ∧ f.evGen = s.fs.evGen := by
  cases h with
  | terr he => exact absurd (.inl he) hdue
  | accept _ hv hs => exact absurd (.inr ⟨hv, hs⟩) hdue
  | reject _ hv hs => exact absurd (.inr ⟨hv, hs⟩) hdue
  | _ => exact ⟨rfl, rfl, rfl⟩

/-- Settles O37: outside reset an edge either has an event due and reports it, or is silent. The two
halves agree on the generation because the publish strobe decides it in both. -/
theorem eventPortReports : Obligations.EventPortReports := by
  refine ⟨⟨rfl, rfl, rfl, rfl⟩, fun w s t h => ?_⟩
  obtain ⟨hrst, rfl⟩ | ⟨hrst, f, m, pub, l, hfs, hlv, rfl⟩ := edge_next h
  · simp [hrst, FsRegs.reset]
  by_cases hdue : EventDue w s
  · obtain ⟨hvalid, hkind, hgen, hpub, hclean⟩ := hfs.reports hdue
    have hlgen := hlv.gen_eq
    refine ⟨iff_of_true hvalid ⟨hrst, hdue⟩, fun _ => ⟨hgen.trans hlgen.symm, hclean, ?_⟩,
      fun h => by simp [hvalid] at h⟩
    simp only [hkind, ne_eq]
    refine ⟨fun hk => ?_, fun hk => ?_, dueKind_iff w s⟩
    · exact hlgen.trans (if_neg (mt hpub.1 hk))
    · exact hlgen.trans (if_pos (hpub.2 hk))
  · obtain ⟨hvalid, hkept⟩ := hfs.silent hdue
    have hnot : ¬ f.evValid = true := by simp [hvalid]
    exact ⟨iff_of_false hnot fun h => hdue h.2, fun h => absurd h hnot, fun _ _ => hkept⟩

/-! The operations that a stimulus word selects (R93, R210). -/

theorem edgeOps_reset (s : State) (hrst : swRst w = true) :
    edgeOps w s = { fs := .fsReset, lv := .lvReset } := by
  rw [edgeOps, fsInstr_eq, lvInstr_eq, if_pos hrst, if_pos hrst]

/-- The error takes the byte's place, so no checksum byte is taken and the publish strobe is 0. -/
theorem edgeOps_error (s : State) (hrst : swRst w = false) (herr : swErr w = true) :
    edgeOps w s = { fs := .fsTerr, lv := lvInstr w false } := by
  have hfs : fsInstr w s.fs.state = .fsTerr := by
    rw [fsInstr_eq, if_neg (by simp [hrst]), if_pos herr]
  rw [edgeOps, hfs, publishStrobe]

theorem lvInstr_noPublish (hrst : swRst w = false) :
    lvInstr w false = if swRd w then .lvTryread else .lvIdle := by
  rw [lvInstr_eq, if_neg (by simp [hrst])]
  cases swRd w <;> rfl

/-- The edge of a transport error: FS.TERR beside an LV operation that does not publish. -/
theorem edge_error (s : State) (hrst : swRst w = false) (herr : swErr w = true) :
    ∃ l, LvCase s false (swRd w) l ∧ edge w s = .next { takeError .transportError s with lv := l } := by
  obtain ⟨l, hl⟩ := exec_lv_next (lvInstr_isFs w false) s
  refine ⟨l, lvCase_of_exec hrst hl, ?_⟩
  rw [edge, edgeOps_error s hrst herr, runOps, hl]
  rfl

/-- Settles O38: the decoders' tables by field give the selections; the edge of an error takes FS.TERR,
which stores nothing, beside an LV operation that does not publish. -/
theorem priorityWithinACycle : Obligations.PriorityWithinACycle := by
  refine fun w s => ⟨edgeOps_reset s, fun hrst herr => ⟨?_, ?_⟩, fun hq => ?_, fun hrst => ?_⟩
  · rw [edgeOps_error s hrst herr, lvInstr_noPublish hrst]
  · obtain ⟨l, hlv, hedge⟩ := edge_error s hrst herr
    obtain ⟨hgen, hhas, hback⟩ := hlv.kept_of_noPublish
    exact ⟨_, hedge, hgen, hhas, hback, sameBytes_of_slots rfl rfl⟩
  · obtain ⟨hrst, herr⟩ : swRst w = false ∧ swErr w = false := by simpa [quiet] using hq
    exact (fsInstr_eq w s.fs.state).trans ((if_neg (by simp [hrst])).trans (if_neg (by simp [herr])))
  · exact (lvInstr_eq w _).trans (if_neg (by simp [hrst]))

end Sys2Proof.Machine
end

section
/-! FS.RESET and LV.RESET (R230): the keys that select them, and what they leave in every register of
R45. -/

namespace Sys2Proof.Machine

/-! The first row of R94 and of R95 has every bit below `rst` as a don't-care. -/

theorem decodeFs_of_rstKey {k : FsKey} (b : Byte) (hk : k &&& 0b10000 = 0b10000) :
    decodeFs k b = .fsReset := by
  rw [decodeFs, if_pos hk]

theorem decodeLv_of_rstKey {k : LvKey} (hk : k &&& 0b100 = 0b100) : decodeLv k = .lvReset := by
  rw [decodeLv, if_pos hk]

theorem exec_fsReset (s : State) : exec .fsReset s = .next { s with fs := FsRegs.reset } := rfl

theorem exec_lvReset (s : State) : exec .lvReset s = .next { s with lv := LvRegs.reset } := rfl

/-- Settles O26: reset is the first row of both decoders, so no other input decides; each half then
replaces its own registers by their reset values and leaves the slots. -/
theorem resetOperationsResult : Obligations.ResetOperationsResult := by
  refine ⟨fun k b => decodeFs_of_rstKey b, fun k => decodeLv_of_rstKey, fun w s => edgeOps_reset s,
    fun s => ⟨?_, ?_⟩⟩
  · have hx := exec_fsReset s
    exact ⟨_, hx, fsLeaves_of_exec rfl hx, sameBytes_of_slots rfl rfl, rfl, rfl⟩
  · have hx := exec_lvReset s
    exact ⟨_, hx, lvLeaves_of_exec rfl hx, rfl⟩

end Sys2Proof.Machine
end

section
/-! An edge outside reset from its two cases: the converse of `edge_next`, and the cell's half as
equations in the publish strobe and `rd_req`. -/

namespace Sys2Proof.Machine

variable {w : StimWord} {s t : State} {f : FsRegs} {m : Memory} {l : LvRegs} {pub rd : Bool}

/-- The FS operation of a cycle that presents a byte (R94). -/
theorem fsInstr_byte (st : FsState) (hrst : swRst w = false) (herr : swErr w = false)
    (hv : swValid w = true) : fsInstr w st =
      match st with
      | .seek => .fsSeekByte (swData w)
      | .payload => .fsPayloadByte (swData w)
      | .checksum => .fsChecksumByte (swData w)
      | .illegal => .fsIll := by
  rw [fsInstr_eq, hrst, herr, hv]
  cases st <;> rfl

theorem fsInstr_terr (st : FsState) (hrst : swRst w = false) (herr : swErr w = true) :
    fsInstr w st = .fsTerr := by
  rw [fsInstr_eq, hrst, herr]; rfl

theorem fsInstr_illegal (hrst : swRst w = false) (herr : swErr w = false) :
    fsInstr w .illegal = .fsIll := by
  rw [fsInstr_eq, hrst, herr]; rfl

/-- Without a byte every legal state has its idle operation, all of which are `noEvent`. -/
theorem exec_fsInstr_idle {st : FsState} (hrst : swRst w = false) (herr : swErr w = false)
    (hv : swValid w = false) (hst : st ≠ .illegal) (s : State) :
    exec (fsInstr w st) s = .next s.noEvent ∧ publishStrobe (fsInstr w st) s = false := by
  rw [fsInstr_eq, hrst, herr, hv]
  cases st with
  | seek => exact ⟨rfl, rfl⟩
  | payload => exact ⟨rfl, rfl⟩
  | checksum => exact ⟨rfl, rfl⟩
  | illegal => exact absurd rfl hst

/-- Each case of the FS half is what the selected operation does. -/
theorem FsCase.exec_eq (h : FsCase w s f m pub) (hrst : swRst w = false) :
    exec (fsInstr w s.fs.state) s = .next { s with fs := f, slots := m } ∧
    publishStrobe (fsInstr w s.fs.state) s = pub := by
  cases h with
  | terr he => rw [fsInstr_terr _ hrst he]; exact ⟨rfl, rfl⟩
  | ill he hs => rw [hs, fsInstr_illegal hrst he]; exact ⟨rfl, rfl⟩
  | idle he hv hs => exact exec_fsInstr_idle hrst he hv hs s
  | markerDone he hv hs hb hk =>
    rw [fsInstr_byte _ hrst he hv, hs]; exact ⟨exec_seekByte_markerDone hb hk, rfl⟩
  | markerNext he hv hs hb hk =>
    rw [fsInstr_byte _ hrst he hv, hs]
    exact ⟨exec_seekByte_markerNext hb hk, rfl⟩
  | restart he hv hs hb h0 =>
    rw [fsInstr_byte _ hrst he hv, hs]
    exact ⟨(exec_seekByte_mismatch hb).trans (by rw [if_pos h0]; rfl), rfl⟩
  | discard he hv hs hb h0 =>
    rw [fsInstr_byte _ hrst he hv, hs]
    exact ⟨(exec_seekByte_mismatch hb).trans (by rw [if_neg h0]; rfl), rfl⟩
  | payload a he hv hs ha hk =>
    rw [fsInstr_byte _ hrst he hv, hs]
    exact ⟨(exec_payloadByte ha _).trans (by rw [if_neg hk, if_neg hk]; rfl), rfl⟩
  | payloadLast a he hv hs ha hk =>
    rw [fsInstr_byte _ hrst he hv, hs]
    exact ⟨(exec_payloadByte ha _).trans (by rw [if_pos hk, if_pos hk]; rfl), rfl⟩
  | accept he hv hs hb =>
    rw [fsInstr_byte _ hrst he hv, hs]
    exact ⟨(exec_checksumByte s _).trans (by rw [if_pos hb, if_pos hb]; rfl), checksumMatches_iff.2 hb⟩
  | reject he hv hs hb =>
    rw [fsInstr_byte _ hrst he hv, hs]
    exact ⟨(exec_checksumByte s _).trans (by rw [if_neg hb, if_neg hb]; rfl),
      Bool.eq_false_iff.2 (mt checksumMatches_iff.1 hb)⟩

/-- Each case of the LV half is what the selected operation does. -/
theorem LvCase.exec_eq (h : LvCase s pub (swRd w) l) (hrst : swRst w = false) :
    exec (lvInstr w pub) s = .next { s with lv := l } := by
  rw [lvInstr_eq, hrst]
  cases h with
  | idle hp hd => rw [hp, hd]; rfl
  | hit hp hd hf => rw [hp, hd]; exact exec_tryread_hit hf
  | miss hp hd hf => rw [hp, hd]; exact exec_tryread_miss hf
  | publish hp hd => rw [hp, hd]; rfl
  | publishHit hp hd hf => rw [hp, hd]; exact exec_publishTryread_hit hf
  | publishMiss hp hd hf => rw [hp, hd]; exact exec_publishTryread_miss hf

/-- The converse of `edge_next` outside reset. -/
theorem edge_of_cases (hrst : swRst w = false) (hf : FsCase w s f m pub)
    (hl : LvCase s pub (swRd w) l) : edge w s = .next { s with fs := f, slots := m, lv := l } := by
  obtain ⟨hfs, hpub⟩ := hf.exec_eq hrst
  exact edge_next_iff.2 ⟨_, { s with lv := l }, hfs, by rw [edgeOps, hpub, hl.exec_eq hrst], rfl⟩

/-- What `edge_next` says of an edge whose word is known not to reset. -/
theorem edge_next_running (hrst : swRst w = false) (h : edge w s = .next t) :
    ∃ f m pub l, FsCase w s f m pub ∧ LvCase s pub (swRd w) l ∧
      t = { s with fs := f, slots := m, lv := l } := by
  obtain ⟨hr, -⟩ | ⟨-, h⟩ := edge_next h
  · simp [hr] at hrst
  · exact h

/-- An edge never changes the build. -/
theorem edge_cfg (h : edge w s = .next t) : t.cfg = s.cfg := by
  obtain ⟨-, rfl⟩ | ⟨-, f, m, pub, l, -, -, rfl⟩ := edge_next h <;> rfl

/-- The cell's registers after its half of an edge, as functions of those before: the read takes what was
fresh and hands the middle slot to the reader, then the publish hands the back slot to the middle and
makes it fresh (R162 to R168). -/
structure LvResult (s : State) (pub rd : Bool) (l : LvRegs) : Prop where
  fresh : l.fresh = (pub || s.lv.fresh && !rd)
  hasValue : l.hasValue = (pub || s.lv.hasValue)
  rdDone : l.rdDone = rd
  rdHit : l.rdHit = (rd && s.lv.fresh)
  rSeen : l.rSeen = (l.rdHit || s.lv.rSeen)
  rGen : l.rGen = if l.rdHit then s.lv.gen else s.lv.rGen
  rIdx : l.rIdx = if l.rdHit then s.lv.mIdx else s.lv.rIdx
  mIdx : l.mIdx = if pub then s.lv.wIdx else if l.rdHit then s.lv.rIdx else s.lv.mIdx

theorem LvCase.result (h : LvCase s pub rd l) : LvResult s pub rd l := by
  cases h with
  | idle hp hd | publish hp hd => subst hp hd; constructor <;> simp
  | hit hp hd hf | miss hp hd hf | publishHit hp hd hf | publishMiss hp hd hf =>
    subst hp hd; constructor <;> simp [hf]

theorem LvCase.wIdx_kept (h : LvCase s false rd l) : l.wIdx = s.lv.wIdx := by
  obtain ⟨-, -, hw⟩ := h.kept_of_noPublish
  exact hw

/-- A middle slot that is fresh after the edge was just published or was fresh before; a reader's slot was
just taken from a fresh middle or was the reader's before. -/
theorem LvCase.slot_origin (h : LvCase s pub rd l) :
    (l.fresh = true → pub = true ∧ l.mIdx = s.lv.wIdx ∨
      pub = false ∧ s.lv.fresh = true ∧ l.mIdx = s.lv.mIdx) ∧
    (l.rSeen = true → s.lv.fresh = true ∧ l.rIdx = s.lv.mIdx ∨
      s.lv.rSeen = true ∧ l.rIdx = s.lv.rIdx) := by
  cases h with
  | idle hp => exact ⟨fun h => .inr ⟨hp, h, rfl⟩, fun h => .inr ⟨h, rfl⟩⟩
  | hit _ _ hf => exact ⟨nofun, fun _ => .inl ⟨hf, rfl⟩⟩
  | miss hp => exact ⟨fun h => .inr ⟨hp, h, rfl⟩, fun h => .inr ⟨h, rfl⟩⟩
  | publish hp => exact ⟨fun _ => .inl ⟨hp, rfl⟩, fun h => .inr ⟨h, rfl⟩⟩
  | publishHit hp _ hf => exact ⟨fun _ => .inl ⟨hp, rfl⟩, fun _ => .inl ⟨hf, rfl⟩⟩
  | publishMiss hp => exact ⟨fun _ => .inl ⟨hp, rfl⟩, fun h => .inr ⟨h, rfl⟩⟩

/-- The publish strobe is the FRAME_OK event. -/
theorem FsCase.pub_eq (h : FsCase w s f m pub) : pub = (f.evValid && f.evKind == .frameOk) := by
  cases h <;> rfl

/-- A publishing edge is the accepted checksum byte's: it stores nothing. -/
theorem FsCase.of_publish (h : FsCase w s f m true) :
    swErr w = false ∧ swValid w = true ∧ s.fs.state = .checksum ∧ swData w = s.fs.sum ∧ f.state = .seek ∧
      m = s.slots := by
  cases h with
  | accept he hv hs hb => exact ⟨he, hv, hs, hb, rfl, rfl⟩

end Sys2Proof.Machine
end

section
/-! The invariants over an edge (R40). They fall into three parts that an edge keeps each by itself: the
cell's flags and indices, the sequencer position, and the running sum, which is `sum8` of the payload
bytes taken so far. -/

namespace Sys2Proof.Machine

variable {w : StimWord} {s t : State} {f : FsRegs} {m : Memory} {l : LvRegs} {pub rd : Bool}

/-! The bytes of the open message. -/

/-- The payload bytes of the open message, as the back slot holds them (R26, R143). -/
def taken (s : State) : List Byte := (slotFrame s s.lv.wIdx).take (bytesTaken s)

theorem taken_of_seek (h : s.fs.state = .seek) : taken s = [] := by simp [taken, bytesTaken, h]

theorem taken_of_payload (h : s.fs.state = .payload) :
    taken s = (slotFrame s s.lv.wIdx).take s.fs.pcnt := by simp [taken, bytesTaken, h]

theorem taken_of_checksum (h : s.fs.state = .checksum) : taken s = slotFrame s s.lv.wIdx := by
  simp [taken, bytesTaken, h, List.take_of_length_le]

theorem taken_of_illegal (h : s.fs.state = .illegal) : taken s = [] := by simp [taken, bytesTaken, h]

/-- Registers that agree on the sequencer position and the back slot take the same bytes. -/
theorem taken_congr (hc : t.cfg = s.cfg) (hm : t.slots = s.slots) (hst : t.fs.state = s.fs.state)
    (hp : t.fs.pcnt = s.fs.pcnt) (hw : t.lv.wIdx = s.lv.wIdx) : taken t = taken s := by
  simp only [taken, bytesTaken, hc, hst, hp, hw, slotFrame_congr hc hm]

theorem take_succ_set {α : Type} {xs : List α} {k : Nat} (hk : k < xs.length) (x : α) :
    (xs.set k x).take (k + 1) = xs.take k ++ [x] := by
  rw [List.take_add_one, List.take_set_of_le (le_refl k), List.getElem?_set_self hk]
  rfl

/-- A payload byte stored at `(w_idx, pcnt)` and counted is appended to the bytes taken. -/
theorem taken_store {a : Nat} {b : Byte} (hs : s.fs.state = .payload)
    (ha : slotAddr s.cfg s.lv.wIdx s.fs.pcnt = some a) (hw : l.wIdx = s.lv.wIdx)
    (hn : bytesTaken { s with fs := f, slots := Memory.write s.slots a b, lv := l } = s.fs.pcnt + 1) :
    taken { s with fs := f, slots := Memory.write s.slots a b, lv := l } = taken s ++ [b] := by
  obtain ⟨-, hk, -⟩ := slotAddr_eq_some.1 ha
  rw [taken_of_payload hs, taken, hn]
  simp only [hw, slotFrame_after_same f l ha b]
  exact take_succ_set (by simpa using hk) b

/-- What an edge outside reset does to the bytes taken: a payload byte is appended, an idle cycle in a
message keeps them, everything else closes the message. -/
theorem taken_after (hf : FsCase w s f m pub) (hl : LvCase s pub rd l) :
    taken { s with fs := f, slots := m, lv := l } =
      match swErr w, swValid w, s.fs.state with
      | false, true, .payload => taken s ++ [swData w]
      | false, false, _ => taken s
      | _, _, _ => [] := by
  cases hf with
  | terr he => simp [he, taken_of_seek]
  | ill he hs => cases hv : swValid w <;> simp [he, hs, taken_of_seek, taken_of_illegal]
  | idle he hv hs =>
    simp only [he, hv]
    exact taken_congr rfl rfl rfl rfl hl.wIdx_kept
  | markerDone he hv hs => simp [he, hv, hs, taken, bytesTaken]
  | markerNext he hv hs => simp [he, hv, hs, taken_of_seek]
  | restart he hv hs => simp [he, hv, hs, taken_of_seek]
  | discard he hv hs => simp [he, hv, hs, taken_of_seek]
  | payload a he hv hs ha hk =>
    simp only [he, hv, hs]
    exact taken_store hs ha hl.wIdx_kept (by simp [bytesTaken])
  | payloadLast a he hv hs ha hk =>
    simp only [he, hv, hs]
    exact taken_store hs ha hl.wIdx_kept hk.symm
  | accept he hv hs => simp [he, hv, hs, taken_of_seek]
  | reject he hv hs => simp [he, hv, hs, taken_of_seek]

theorem sum8_append_singleton (p : List Byte) (b : Byte) : sum8 (p ++ [b]) = sum8 p + b := by
  simp [sum8]

/-! The three parts of R40. -/

/-- (I-a), (I-g), (I-h), (I-i): what R40 says of the cell's registers. -/
structure CellInv (l : LvRegs) : Prop where
  indices : l.wIdx.toNat < 3 ∧ l.mIdx.toNat < 3 ∧ l.rIdx.toNat < 3 ∧
    l.wIdx ≠ l.mIdx ∧ l.wIdx ≠ l.rIdx ∧ l.mIdx ≠ l.rIdx
  freshHasValue : l.fresh = true → l.hasValue = true
  seenHasValue : l.rSeen = true → l.hasValue = true
  readerHoldsLatest : l.hasValue = true → l.fresh = false → l.rSeen = true

/-- (I-b) to (I-d): what R40 says of the sequencer position. -/
structure PositionInv (c : Config) (f : FsRegs) : Prop where
  legalState : f.state ≠ .illegal
  midxOutsideSeek : f.state ≠ .seek → f.midx = 0
  pcntOutsidePayload : f.state ≠ .payload → f.pcnt = 0
  pcntBelowPlen : f.pcnt < c.plen

/-- R40 in its three parts; (I-e) and (I-f) together say that the sum is that of the bytes taken. -/
theorem r40_iff : R40 s ↔ s.cfg.wellFormed = true ∧ CellInv s.lv ∧ PositionInv s.cfg s.fs ∧
    s.fs.sum = sum8 (taken s) := by
  constructor
  · intro h
    refine ⟨h.built, ⟨h.indices, h.freshHasValue, h.seenHasValue, h.readerHoldsLatest⟩,
      ⟨h.legalState, h.midxOutsideSeek, h.pcntOutsidePayload, h.pcntBelowPlen⟩, ?_⟩
    cases hs : s.fs.state with
    | seek => rw [h.sumInSeek hs, taken_of_seek hs]; rfl
    | payload => rw [h.sumInPayload hs, taken_of_payload hs]
    | checksum => rw [h.sumInChecksum hs, taken_of_checksum hs]
    | illegal => exact absurd hs h.legalState
  · rintro ⟨hb, hcell, hpos, hsum⟩
    exact ⟨hb, hcell.indices, hpos.legalState, hpos.midxOutsideSeek, hpos.pcntOutsidePayload,
      hpos.pcntBelowPlen, fun hs => by rw [hsum, taken_of_seek hs]; rfl,
      fun hs => by rw [hsum, taken_of_payload hs], fun hs => by rw [hsum, taken_of_checksum hs],
      hcell.freshHasValue, hcell.seenHasValue, hcell.readerHoldsLatest⟩

theorem R40.sum_eq (h : R40 s) : s.fs.sum = sum8 (taken s) := by
  obtain ⟨-, -, -, hsum⟩ := r40_iff.1 h
  exact hsum

theorem R40.cell (h : R40 s) : CellInv s.lv := by
  obtain ⟨-, hcell, -⟩ := r40_iff.1 h
  exact hcell

theorem plen_pos {c : Config} (h : c.wellFormed = true) : 0 < c.plen := by
  simp only [Config.wellFormed, Bool.and_eq_true, decide_eq_true_eq] at h
  have : c.plen = 3 * c.nLeds := rfl
  omega

theorem CellInv.reset : CellInv LvRegs.reset := by constructor <;> decide

theorem PositionInv.reset {c : Config} (h : 0 < c.plen) : PositionInv c FsRegs.reset :=
  ⟨nofun, fun h => absurd rfl h, fun _ => rfl, h⟩

/-- The cell's half permutes the three slot indices and keeps the order of its flags. -/
theorem LvCase.keeps_cellInv (h : LvCase s pub rd l) (hinv : CellInv s.lv) : CellInv l := by
  obtain ⟨⟨hw, hm, hr, hwm, hwr, hmr⟩, hfresh, hseen, hlatest⟩ := hinv
  cases h with
  | idle => exact ⟨⟨hw, hm, hr, hwm, hwr, hmr⟩, hfresh, hseen, hlatest⟩
  | hit _ _ hf => exact ⟨⟨hw, hr, hm, hwr, hwm, hmr.symm⟩, nofun, fun _ => hfresh hf, fun _ _ => rfl⟩
  | miss => exact ⟨⟨hw, hm, hr, hwm, hwr, hmr⟩, hfresh, hseen, hlatest⟩
  | publish => exact ⟨⟨hm, hw, hr, hwm.symm, hmr, hwr⟩, fun _ => rfl, fun _ => rfl, nofun⟩
  | publishHit => exact ⟨⟨hr, hw, hm, hwr.symm, hmr.symm, hwm⟩, fun _ => rfl, fun _ => rfl, nofun⟩
  | publishMiss => exact ⟨⟨hm, hw, hr, hwm.symm, hmr, hwr⟩, fun _ => rfl, fun _ => rfl, nofun⟩

/-- Every way back to SEEK or into a new phase starts from position 0; only a payload byte counts. -/
theorem FsCase.keeps_positionInv (h : FsCase w s f m pub) (hinv : PositionInv s.cfg s.fs) :
    PositionInv s.cfg f := by
  have hpos : 0 < s.cfg.plen := Nat.zero_lt_of_lt hinv.pcntBelowPlen
  obtain ⟨hst, hmidx, hpcnt, hlt⟩ := hinv
  cases h with
  | terr | ill | accept | reject => exact ⟨nofun, fun h => absurd rfl h, fun _ => rfl, hpos⟩
  | idle => exact ⟨hst, hmidx, hpcnt, hlt⟩
  | markerDone => exact ⟨nofun, fun _ => rfl, fun _ => rfl, hpos⟩
  | markerNext _ _ hs | restart _ _ hs | discard _ _ hs => exact ⟨hst, fun h => absurd hs h, hpcnt, hlt⟩
  | payload a _ _ hs _ hk =>
    exact ⟨hst, hmidx, fun h => absurd hs h, show s.fs.pcnt + 1 < s.cfg.plen by omega⟩
  | payloadLast a _ _ hs => exact ⟨nofun, fun _ => hmidx (by simp [hs]), fun _ => rfl, hpos⟩

/-- The sum follows the bytes taken. -/
theorem FsCase.keeps_sum (hf : FsCase w s f m pub) (hl : LvCase s pub rd l)
    (hsum : s.fs.sum = sum8 (taken s)) :
    f.sum = sum8 (taken { s with fs := f, slots := m, lv := l }) := by
  rw [taken_after hf hl]
  cases hf with
  | terr he => simp only [he]; rfl
  | ill he hs =>
    cases hv : swValid w
    · simp only [he, hs, taken_of_illegal hs]; rfl
    · simp only [he, hs]; rfl
  | idle he hv => simp only [he, hv]; exact hsum
  | markerDone he hv hs => simp only [he, hv, hs]; rfl
  | markerNext he hv hs | restart he hv hs | discard he hv hs =>
    simp only [he, hv, hs, hsum, taken_of_seek hs]
  | payload a he hv hs | payloadLast a he hv hs =>
    simp only [he, hv, hs, sum8_append_singleton, hsum]
  | accept he hv hs | reject he hv hs => simp only [he, hv, hs]; rfl

/-- Reset values meet the invariants over any slots (R45). -/
theorem r40_reset (h : s.cfg.wellFormed = true) : R40 { s with fs := FsRegs.reset, lv := LvRegs.reset } :=
  r40_iff.2 ⟨h, CellInv.reset, PositionInv.reset (plen_pos h), by rw [taken_of_seek rfl]; rfl⟩

/-- Every edge keeps R40: each half keeps its own part, and together they keep the sum. -/
theorem R40.edge (hinv : R40 s) (h : edge w s = .next t) : R40 t := by
  obtain ⟨hb, hcell, hpos, hsum⟩ := r40_iff.1 hinv
  obtain ⟨-, rfl⟩ | ⟨-, f, m, pub, l, hf, hl, rfl⟩ := edge_next h
  · exact r40_reset hb
  · exact r40_iff.2 ⟨hb, hl.keeps_cellInv hcell, hf.keeps_positionInv hpos, hf.keeps_sum hl hsum⟩

/-! Steps. A step is an edge from the state with its stimulus word taken, which is the same state to
every invariant of the block. -/

/-- The state that a step's edge starts from. -/
theorem step_eq (s : State) : ∃ (w : StimWord) (inputs : List StimWord) (cycle : Nat),
    step s = edge w { s with inputs := inputs, cycle := cycle } := by
  cases hin : s.inputs with
  | nil =>
    exact ⟨Config.freeStimulus s.cycle, s.inputs, s.cycle + 1, by simp only [step, nextEdge, sampleInput, hin]⟩
  | cons w rest => exact ⟨w, rest, s.cycle + 1, by simp only [step, nextEdge, sampleInput, hin]⟩

/-- A property that edges keep, and that does not look at the stimulus, is kept by steps. -/
theorem step_keeps {P : State → Prop} (hstim : ∀ s is c, P s → P { s with inputs := is, cycle := c })
    (hedge : ∀ w s t, P s → edge w s = .next t → P t) (hs : P s) (h : step s = .next t) : P t := by
  obtain ⟨w, is, c, hstep⟩ := step_eq s
  exact hedge w _ t (hstim s is c hs) (hstep ▸ h)

theorem R40.withStimulus (h : R40 s) (is : List StimWord) (c : Nat) :
    R40 { s with inputs := is, cycle := c } := by
  obtain ⟨hb, hcell, hpos, hsum⟩ := r40_iff.1 h
  exact r40_iff.2 ⟨hb, hcell, hpos, hsum⟩

/-- Settles O30: R40 is kept part by part. -/
theorem everyStepKeepsR40 : Obligations.EveryStepKeepsR40 := fun _ hinv =>
  ⟨fun _ _ => hinv.edge, fun _ => step_keeps (fun _ is c h => h.withStimulus is c)
    (fun _ _ _ h => h.edge) hinv⟩

end Sys2Proof.Machine
end

section
/-! Register widths and the canonical store, and the bytes that a port may show (R31, R63, R143), over an
edge. -/

namespace Sys2Proof.Machine

variable {w : StimWord} {s t : State} {f : FsRegs} {m : Memory} {l : LvRegs} {pub rd : Bool}

/-! Widths and codes. -/

theorem nextGen_lt (s : State) : nextGen s < 2 ^ s.cfg.genW := Nat.mod_lt _ (Nat.two_pow_pos _)

theorem FsCase.keeps_evGen (h : FsCase w s f m pub) (hev : s.fs.evGen < 2 ^ s.cfg.genW)
    (hgen : s.lv.gen < 2 ^ s.cfg.genW) : f.evGen < 2 ^ s.cfg.genW := by
  cases h with
  | accept => exact nextGen_lt s
  | terr | reject => exact hgen
  | _ => exact hev

/-- No operation reports the reserved event code (R99). -/
theorem FsCase.keeps_evKind (h : FsCase w s f m pub) (hev : s.fs.evKind ≠ .reserved) :
    f.evKind ≠ .reserved := by
  cases h with
  | terr | accept | reject => nofun
  | _ => exact hev

/-- The one store an edge can make keeps the store canonical and within its addresses. -/
theorem FsCase.keeps_store (h : FsCase w s f m pub) (hwf : Memory.wf s.slots)
    (hlt : ∀ x ∈ s.slots, x.1 < 3 * s.cfg.plen) : Memory.wf m ∧ ∀ x ∈ m, x.1 < 3 * s.cfg.plen := by
  obtain rfl | ⟨a, -, ha, rfl⟩ := h.slots_cases
  · exact ⟨hwf, hlt⟩
  · refine ⟨write_wf a _ hwf, fun x hx => ?_⟩
    obtain rfl | hx := mem_write hx
    · obtain ⟨hi, hk, rfl⟩ := slotAddr_eq_some.1 ha
      exact slotKey_lt hi hk
    · exact hlt x hx

theorem LvCase.keeps_gens (h : LvCase s pub rd l) (hgen : s.lv.gen < 2 ^ s.cfg.genW)
    (hr : s.lv.rGen < 2 ^ s.cfg.genW) : l.gen < 2 ^ s.cfg.genW ∧ l.rGen < 2 ^ s.cfg.genW := by
  rw [h.gen_eq, h.result.rGen]
  constructor
  · split
    · exact nextGen_lt s
    · exact hgen
  · split
    · exact hgen
    · exact hr

theorem LvCase.hit_done (h : LvCase s pub rd l) (hit : l.rdHit = true) : l.rdDone = true := by
  rw [h.result.rdHit, Bool.and_eq_true] at hit
  rw [h.result.rdDone]
  exact hit.1

theorem Typed.reset (hwf : Memory.wf s.slots) (hlt : ∀ x ∈ s.slots, x.1 < 3 * s.cfg.plen) :
    Typed { s with fs := FsRegs.reset, lv := LvRegs.reset } :=
  ⟨Nat.two_pow_pos _, Nat.two_pow_pos _, Nat.two_pow_pos _, nofun, nofun, hwf, hlt⟩

theorem Typed.edge (hinv : Typed s) (h : edge w s = .next t) : Typed t := by
  obtain ⟨hgen, hrgen, hev, hkind, -, hwf, hlt⟩ := hinv
  obtain ⟨-, rfl⟩ | ⟨-, f, m, pub, l, hf, hl, rfl⟩ := edge_next h
  · exact Typed.reset hwf hlt
  · obtain ⟨hgen', hrgen'⟩ := hl.keeps_gens hgen hrgen
    obtain ⟨hwf', hlt'⟩ := hf.keeps_store hwf hlt
    exact ⟨hgen', hrgen', hf.keeps_evGen hev hgen, hf.keeps_evKind hkind, hl.hit_done, hwf', hlt'⟩

theorem Typed.withStimulus (h : Typed s) (is : List StimWord) (c : Nat) :
    Typed { s with inputs := is, cycle := c } := ⟨h.1, h.2, h.3, h.4, h.5, h.6, h.7⟩

/-- Settles O31: each register group and the store are kept by their own lemma. -/
theorem everyStepKeepsTyped : Obligations.EveryStepKeepsTyped := fun _ hinv =>
  ⟨fun _ _ => hinv.edge, fun _ => step_keeps (fun _ is c h => h.withStimulus is c)
    (fun _ _ _ h => h.edge) hinv⟩

/-! Bytes that may be shown. -/

theorem WrittenBelow.congr {i : SlotIdx} {n : Nat} (h : WrittenBelow s i n)
    (hread : ∀ k, slotRead t i k = slotRead s i k) : WrittenBelow t i n :=
  fun k hk => (hread k).symm ▸ h k hk

/-- A store at index `n` extends what is written below `n` by one byte. -/
theorem WrittenBelow.store {a : Nat} {i : SlotIdx} {n : Nat} (h : WrittenBelow s i n)
    (ha : slotAddr s.cfg i n = some a) (b : Byte) :
    WrittenBelow { s with fs := f, slots := Memory.write s.slots a b, lv := l } i (n + 1) := by
  intro k hk
  by_cases hkn : k = n
  · subst hkn; rw [slotRead_after_same f l ha b]; rfl
  · rw [slotRead_after_other f l ha b (by simp [hkn])]; exact h k (by omega)

/-- The bytes taken stay written: a payload byte is stored where the count then reaches. -/
theorem ShownBytesWritten.back_after (hf : FsCase w s f m pub) (hl : LvCase s pub rd l)
    (hback : WrittenBelow s s.lv.wIdx (bytesTaken s)) :
    WrittenBelow { s with fs := f, slots := m, lv := l } l.wIdx
      (bytesTaken { s with fs := f, slots := m, lv := l }) := by
  have hnone : ∀ {u : State} {i : SlotIdx}, WrittenBelow u i 0 := nofun
  cases hf with
  | terr | ill | accept | reject => exact hnone
  | markerDone => exact hnone
  | markerNext _ _ hs | restart _ _ hs | discard _ _ hs => simpa [bytesTaken, hs] using hnone
  | idle =>
    rw [hl.wIdx_kept]
    exact hback.congr fun k => slotRead_congr rfl rfl _ k
  | payload a _ _ hs ha =>
    rw [hl.wIdx_kept]
    simp only [bytesTaken, hs] at hback ⊢
    exact hback.store ha _
  | payloadLast a _ _ hs ha hk =>
    rw [hl.wIdx_kept]
    simp only [bytesTaken, hs] at hback ⊢
    exact hk ▸ hback.store ha _

/-- An edge leaves the written bytes of a slot that is not the back slot. -/
theorem FsCase.writtenBelow_other (hf : FsCase w s f m pub) {j : SlotIdx} (hj : j ≠ s.lv.wIdx) {n : Nat}
    (h : WrittenBelow s j n) : WrittenBelow { s with fs := f, slots := m, lv := l } j n := by
  obtain rfl | ⟨a, -, ha, rfl⟩ := hf.slots_cases
  · exact h.congr fun k => slotRead_congr rfl rfl j k
  · exact h.congr fun k => slotRead_after_other f l ha _ (by simp [hj])

/-- The middle slot after an edge holds a frame if it is fresh: the published one, taken whole, or the one
that was there. -/
theorem ShownBytesWritten.middle_after (hcell : CellInv s.lv) (hf : FsCase w s f m pub)
    (hl : LvCase s pub rd l) (hshown : ShownBytesWritten s) (hfresh : l.fresh = true) :
    WrittenBelow { s with fs := f, slots := m, lv := l } l.mIdx s.cfg.plen := by
  obtain ⟨rfl, hm⟩ | ⟨-, hold, hm⟩ := hl.slot_origin.1 hfresh <;> rw [hm]
  · obtain ⟨-, -, hs, -, -, rfl⟩ := hf.of_publish
    have hback := hshown.back
    rw [bytesTaken, hs] at hback
    exact hback.congr fun k => slotRead_congr rfl rfl _ k
  · obtain ⟨-, -, -, hwm, -, -⟩ := hcell.indices
    exact hf.writtenBelow_other hwm.symm (hshown.middle hold)

/-- The reader's slot after an edge holds a frame if it was ever taken: by (I-a) no edge writes it. -/
theorem ShownBytesWritten.reader_after (hcell : CellInv s.lv) (hf : FsCase w s f m pub)
    (hl : LvCase s pub rd l) (hshown : ShownBytesWritten s) (hseen : l.rSeen = true) :
    WrittenBelow { s with fs := f, slots := m, lv := l } l.rIdx s.cfg.plen := by
  obtain ⟨-, -, -, hwm, hwr, -⟩ := hcell.indices
  obtain ⟨hfresh, hr⟩ | ⟨hold, hr⟩ := hl.slot_origin.2 hseen <;> rw [hr]
  · exact hf.writtenBelow_other hwm.symm (hshown.middle hfresh)
  · exact hf.writtenBelow_other hwr.symm (hshown.reader hold)

theorem ShownBytesWritten.reset : ShownBytesWritten { s with fs := FsRegs.reset, lv := LvRegs.reset } :=
  ⟨nofun, nofun, nofun⟩

theorem ShownBytesWritten.edge (hinv : R40 s) (hshown : ShownBytesWritten s) (h : edge w s = .next t) :
    ShownBytesWritten t := by
  have hcell := hinv.cell
  obtain ⟨-, rfl⟩ | ⟨-, f, m, pub, l, hf, hl, rfl⟩ := edge_next h
  · exact ShownBytesWritten.reset
  · exact ⟨back_after hf hl hshown.back, middle_after hcell hf hl hshown, reader_after hcell hf hl hshown⟩

theorem ShownBytesWritten.withStimulus (h : ShownBytesWritten s) (is : List StimWord) (c : Nat) :
    ShownBytesWritten { s with inputs := is, cycle := c } := ⟨h.back, h.middle, h.reader⟩

/-- Settles O32: carried along with R40, whose slot indices keep a store out of shown slots. -/
theorem everyStepKeepsShownBytesWritten : Obligations.EveryStepKeepsShownBytesWritten := fun _ hinv hshown =>
  ⟨fun _ _ => hshown.edge hinv, fun _ h =>
    (step_keeps (P := fun u => R40 u ∧ ShownBytesWritten u)
      (fun _ is c hu => ⟨hu.1.withStimulus is c, hu.2.withStimulus is c⟩)
      (fun _ _ _ hu he => ⟨hu.1.edge he, hu.2.edge hu.1 he⟩) ⟨hinv, hshown⟩ h).2⟩

end Sys2Proof.Machine
end

section
/-! Runs over a stimulus sequence: how they compose, and one induction for every property that edges keep. -/

namespace Sys2Proof.Machine

variable {w : StimWord} {s t u : State} {us vs ws : List StimWord}

theorem feed_cons (h : edge w s = .next t) (ws : List StimWord) : feed (w :: ws) s = feed ws t := by
  rw [feed, h]

theorem statesAfter_cons (h : edge w s = .next t) (ws : List StimWord) :
    statesAfter (w :: ws) s = t :: statesAfter ws t := by
  rw [statesAfter, h]

/-- A run of at least one word goes on from its first edge. -/
theorem feed_cons_next (h : feed (w :: ws) s = .next u) : ∃ t, edge w s = .next t ∧ feed ws t = .next u := by
  rw [feed] at h
  cases he : edge w s with
  | next t => rw [he] at h; exact ⟨t, rfl, h⟩
  | fault r => rw [he] at h; cases h
  | refused r => rw [he] at h; cases h

theorem feed_append (h : feed us s = .next t) (vs : List StimWord) : feed (us ++ vs) s = feed vs t := by
  induction us generalizing s with
  | nil => cases h; rfl
  | cons w us ih =>
    obtain ⟨x, hx, hus⟩ := feed_cons_next h
    rw [List.cons_append, feed_cons hx, ih hus]

/-- The event that an edge reports, as the one the log notes. -/
def eventOf (t : State) : Option (EvKind × Nat) := if t.fs.evValid then some (t.fs.evKind, t.fs.evGen) else none

theorem eventLog_cons (h : edge w s = .next t) (ws : List StimWord) :
    eventLog (w :: ws) s = (eventOf t).toList ++ eventLog ws t := by
  rw [eventLog, statesAfter_cons h, List.filterMap_cons]
  unfold eventOf eventLog
  split <;> simp_all

/-- What every edge keeps holds at the end of a run. -/
theorem feed_keeps {P : State → Prop} (hedge : ∀ w s t, P s → edge w s = .next t → P t) (hs : P s)
    (h : feed ws s = .next t) : P t := by
  induction ws generalizing s with
  | nil => cases h; exact hs
  | cons w ws ih =>
    obtain ⟨x, hx, hws⟩ := feed_cons_next h
    exact ih (hedge w s x hs hx) hws

theorem R40.feed (hinv : R40 s) (h : feed ws s = .next t) : R40 t := feed_keeps (fun _ _ _ h => h.edge) hinv h

theorem feed_cfg (h : feed ws s = .next t) : t.cfg = s.cfg :=
  feed_keeps (P := fun u => u.cfg = s.cfg) (fun _ _ _ hu he => (edge_cfg he).trans hu) rfl h

/-- In PAYLOAD the invariants put the store position inside the slot store, so no stimulus stops an edge. -/
theorem R40.edge_exists (hinv : R40 s) (w : StimWord) : ∃ t, Machine.edge w s = .next t :=
  Machine.edge_exists w s fun _ => ⟨hinv.indices.1, hinv.pcntBelowPlen⟩

theorem R40.feed_exists (hinv : R40 s) (ws : List StimWord) : ∃ t, Machine.feed ws s = .next t := by
  induction ws generalizing s with
  | nil => exact ⟨s, rfl⟩
  | cons w ws ih =>
    obtain ⟨x, hx⟩ := hinv.edge_exists w
    obtain ⟨t, ht⟩ := ih (hinv.edge hx)
    exact ⟨t, (feed_cons hx ws).trans ht⟩

/-- Settles O34: a stop needs a store position outside the slot store. -/
theorem noStimulusStopsTheBlock : Obligations.NoStimulusStopsTheBlock := fun w _ hinv => hinv.edge_exists w

/-! From reset. -/

theorem r40_resetOf {c : Config} (h : c.wellFormed = true) : R40 (State.resetOf c) :=
  r40_reset (s := State.resetOf c) h

theorem typed_resetOf (c : Config) : Typed (State.resetOf c) :=
  Typed.reset (s := State.resetOf c) ⟨.nil, nofun⟩ nofun

theorem shown_resetOf (c : Config) : ShownBytesWritten (State.resetOf c) :=
  ShownBytesWritten.reset (s := State.resetOf c)

/-- Settles O29: with nothing stored the reset values of R45 meet each invariant. -/
theorem invariantsHoldAtReset : Obligations.InvariantsHoldAtReset := fun c h =>
  ⟨r40_resetOf h, typed_resetOf c, shown_resetOf c, r40_resetOf (by decide)⟩

/-- Settles O33: under R40 a run reaches its end, and the invariants, true at reset, are kept along it. -/
theorem everyRunFromResetIsSafe : Obligations.EveryRunFromResetIsSafe := by
  intro c ws hwf
  obtain ⟨t, ht⟩ := (r40_resetOf hwf).feed_exists ws
  exact ⟨t, ht, feed_keeps (P := fun u => R40 u ∧ Typed u ∧ ShownBytesWritten u)
    (fun _ _ _ ⟨h1, h2, h3⟩ he => ⟨h1.edge he, h2.edge he, h3.edge h1 he⟩)
    ⟨r40_resetOf hwf, typed_resetOf c, shown_resetOf c⟩ ht⟩

end Sys2Proof.Machine
end

section
/-! The cell over time (R70 to R74, R170, R176): the latest frame, the port and the freshness flag over an
edge, and what follows for runs. -/

namespace Sys2Proof.Machine

variable {w : StimWord} {s t u : State} {f : FsRegs} {m : Memory} {l : LvRegs} {pub rd : Bool}
  {ws : List StimWord}

/-! The latest frame. -/

/-- The slot that holds the latest frame: the middle slot while it is fresh, then the reader's (R186). -/
def latestIdx (l : LvRegs) : SlotIdx := if l.fresh then l.mIdx else l.rIdx

theorem latestFrame_eq (s : State) :
    latestFrame s = if s.lv.hasValue then some (slotFrame s (latestIdx s.lv)) else none := by
  simp only [latestFrame, latestIdx]
  split
  · split <;> rfl
  · rfl

theorem latestIdx_ne_back (h : CellInv l) : latestIdx l ≠ l.wIdx := by
  obtain ⟨-, -, -, hwm, hwr, -⟩ := h.indices
  unfold latestIdx
  split
  · exact hwm.symm
  · exact hwr.symm

/-- Without a publish the latest frame stays in its slot: a hit only hands that slot to the reader. -/
theorem LvCase.latestIdx_kept (h : LvCase s false rd l) : latestIdx l = latestIdx s.lv := by
  cases h with
  | idle | miss => rfl
  | hit _ _ hf => simp [latestIdx, hf]
  | publish hp | publishHit hp | publishMiss hp => cases hp

/-- A publish makes the back slot's frame the latest; nothing else outside reset changes it. -/
theorem latestFrame_after (hcell : CellInv s.lv) (hf : FsCase w s f m pub) (hl : LvCase s pub rd l) :
    latestFrame { s with fs := f, slots := m, lv := l } =
      if pub then some (slotFrame s s.lv.wIdx) else latestFrame s := by
  have hr := hl.result
  rw [latestFrame_eq, latestFrame_eq]
  cases pub with
  | true =>
    obtain ⟨-, -, -, -, -, rfl⟩ := hf.of_publish
    simp only [hr.hasValue, latestIdx, hr.fresh, hr.mIdx, Bool.true_or, if_true, slotFrame_after_none f l]
  | false =>
    simp only [hr.hasValue, hl.latestIdx_kept, hf.slotFrame_other (latestIdx_ne_back hcell), Bool.false_or,
      Bool.false_eq_true, if_false]

/-- The publish strobe shows on the event port. -/
theorem publishedOn_after (hf : FsCase w s f m pub) :
    publishedOn { s with fs := f, slots := m, lv := l } = pub := hf.pub_eq.symm

theorem latestFrame_edge (hinv : R40 s) (hrst : swRst w = false) (h : edge w s = .next t) :
    latestFrame t = if publishedOn t then some (slotFrame s s.lv.wIdx) else latestFrame s := by
  obtain ⟨f, m, pub, l, hf, hl, rfl⟩ := edge_next_running hrst h
  rw [publishedOn_after hf, latestFrame_after hinv.cell hf hl]

/-! The read port. -/

theorem rdDone_edge (hrst : swRst w = false) (h : edge w s = .next t) : t.lv.rdDone = swRd w := by
  obtain ⟨f, m, pub, l, -, hl, rfl⟩ := edge_next_running hrst h
  exact hl.result.rdDone

theorem rdHit_edge (hrst : swRst w = false) (h : edge w s = .next t) :
    t.lv.rdHit = (swRd w && s.lv.fresh) := by
  obtain ⟨f, m, pub, l, -, hl, rfl⟩ := edge_next_running hrst h
  exact hl.result.rdHit

/-- Settles O40: outside reset the answer is the request and the old `fresh`; reset clears both. -/
theorem readAnsweredNextCycle : Obligations.ReadAnsweredNextCycle := by
  intro w s t h
  cases hrst : swRst w with
  | true =>
    rw [edge_reset s hrst] at h
    cases h
    simp [LvRegs.reset]
  | false => simp [rdDone_edge hrst h, rdHit_edge hrst h]

/-- A read shows the latest frame there was before it, fresh or not, else the fallback (R176): with (I-i)
a frame that is not fresh is already the reader's. -/
theorem rdFrame_edge_read (hinv : R40 s) (hrst : swRst w = false) (hrd : swRd w = true)
    (h : edge w s = .next t) : rdFrame t = (latestFrame s).getD s.cfg.fallback := by
  have hhit := rdHit_edge hrst h
  obtain ⟨f, m, pub, l, hf, hl, rfl⟩ := edge_next_running hrst h
  have hr := hl.result
  obtain ⟨-, -, -, hwm, hwr, -⟩ := hinv.indices
  rw [latestFrame_eq, latestIdx]
  cases hfr : s.lv.fresh with
  | true =>
    have hh : l.rdHit = true := by simpa [hrd, hfr] using hhit
    rw [if_pos (hinv.freshHasValue hfr), rdFrame_of_seen (by simp [hr.rSeen, hh])]
    simp only [hr.rIdx, hh, if_true, hf.slotFrame_other hwm.symm, Option.getD_some]
  | false =>
    have hh : l.rdHit = false := by simpa [hfr] using hhit
    have hkept : rdFrame { s with fs := f, slots := m, lv := l } = rdFrame s :=
      rdFrame_congr rfl (by simp [hr.rSeen, hh]) (by simp [hr.rIdx, hh]) (hf.slotFrame_other hwr.symm)
    rw [hkept]
    cases hhas : s.lv.hasValue with
    | true => simp [rdFrame_of_seen (hinv.readerHoldsLatest hhas hfr)]
    | false =>
      have hunseen : s.lv.rSeen = false := Bool.eq_false_iff.2 (mt hinv.seenHasValue (by simp [hhas]))
      simp [rdFrame_of_unseen hunseen]

/-- Without a read the port keeps its frame. -/
theorem rdFrame_edge_noRead (hinv : R40 s) (hrst : swRst w = false) (hrd : swRd w = false)
    (h : edge w s = .next t) : rdFrame t = rdFrame s ∧ t.lv.rSeen = s.lv.rSeen := by
  have hhit : t.lv.rdHit = false := by rw [rdHit_edge hrst h, hrd, Bool.false_and]
  obtain ⟨hframe, hhas, -⟩ := (readPortShowsHeldFrame.2 w s t hinv h).2 hrst hhit
  exact ⟨hframe, hhas⟩

/-! The generation and the freshness flag, by publishes and hits. -/

/-- What an edge outside reset does to the cell's flags and generations, by its publish and its hit, which
the ports show. -/
structure CellStep (s t : State) : Prop where
  fresh : t.lv.fresh = (publishedOn t || s.lv.fresh && !t.lv.rdHit)
  hasValue : t.lv.hasValue = (publishedOn t || s.lv.hasValue)
  rSeen : t.lv.rSeen = (t.lv.rdHit || s.lv.rSeen)
  gen : t.lv.gen = if publishedOn t then nextGen s else s.lv.gen
  rGen : t.lv.rGen = if t.lv.rdHit then s.lv.gen else s.lv.rGen
  hitFresh : t.lv.rdHit = true → s.lv.fresh = true

theorem cellStep_edge (hrst : swRst w = false) (h : edge w s = .next t) : CellStep s t := by
  obtain ⟨f, m, pub, l, hf, hl, rfl⟩ := edge_next_running hrst h
  have hr := hl.result
  have hpub : publishedOn { s with fs := f, slots := m, lv := l } = pub := publishedOn_after hf
  refine ⟨?_, by rw [hpub]; exact hr.hasValue, hr.rSeen, by rw [hpub]; exact hl.gen_eq, hr.rGen,
    fun hhit => ?_⟩
  · rw [hpub, hr.fresh, hr.rdHit]
    cases s.lv.fresh <;> simp
  · rw [hr.rdHit, Bool.and_eq_true] at hhit
    exact hhit.2

/-- A publish comes with no reset, and its event carries the new generation (R200, R201). -/
theorem publishedOn_edge (h : edge w s = .next t) (hpub : publishedOn t = true) :
    swRst w = false ∧ t.fs.evGen = t.lv.gen := by
  rw [publishedOn, Bool.and_eq_true] at hpub
  obtain ⟨hvalid, hport, -⟩ := eventPortReports.2 w s t h
  exact ⟨(hvalid.1 hpub.1).1, (hport hpub.1).1⟩

theorem rdHit_running (h : edge w s = .next t) (hhit : t.lv.rdHit = true) : swRst w = false := by
  obtain ⟨-, hiff⟩ := readAnsweredNextCycle w s t h
  obtain ⟨-, hrst, -⟩ := hiff.1 hhit
  exact hrst

/-- What R70 keeps from a publish to the next read, while nothing publishes or hits: a fresh frame `p` of
generation `g`. -/
def FreshWith (p : List Byte) (g : Nat) (s : State) : Prop :=
  R40 s ∧ s.lv.fresh = true ∧ latestFrame s = some p ∧ s.lv.gen = g

theorem freshWith_feed {p : List Byte} {g : Nat} (hs : FreshWith p g s) (hrst : ∀ x ∈ ws, swRst x = false)
    (hq : ∀ x ∈ statesAfter ws s, publishedOn x = false ∧ x.lv.rdHit = false) (h : feed ws s = .next t) :
    FreshWith p g t := by
  induction ws generalizing s with
  | nil => cases h; exact hs
  | cons w ws ih =>
    obtain ⟨x, hx, hws⟩ := feed_cons_next h
    rw [statesAfter_cons hx] at hq
    obtain ⟨⟨hpub, hhit⟩, hq⟩ := List.forall_mem_cons.1 hq
    obtain ⟨hr, hrst⟩ := List.forall_mem_cons.1 hrst
    obtain ⟨hinv, hfresh, hlatest, hgen⟩ := hs
    have hstep := cellStep_edge hr hx
    refine ih ⟨hinv.edge hx, ?_, ?_, ?_⟩ hrst hq hws
    · simp [hstep.fresh, hfresh, hhit]
    · rw [latestFrame_edge hinv hr hx, hpub]; exact hlatest
    · rw [hstep.gen, hpub]; exact hgen

/-- Settles O51: from the publish to the read the latest frame stays fresh and keeps its generation. -/
theorem publishedFrameIsReadNext : Obligations.PublishedFrameIsReadNext := by
  intro s t u v w r ws hinv hw hpub hws hrst hquiet hrr hrd hr
  obtain ⟨hwr, hev⟩ := publishedOn_edge hw hpub
  have ht : FreshWith (slotFrame s s.lv.wIdx) t.fs.evGen t :=
    ⟨hinv.edge hw, by simp [(cellStep_edge hwr hw).fresh, hpub],
      by simp [latestFrame_edge hinv hwr hw, hpub], hev.symm⟩
  obtain ⟨hinvu, hfu, hlu, hgu⟩ := freshWith_feed ht hrst hquiet hws
  have hhit : v.lv.rdHit = true := by rw [rdHit_edge hrr hr, hrd, hfu]; rfl
  exact ⟨hhit, by rw [rdFrame_edge_read hinvu hrr hrd hr, hlu]; rfl,
    by rw [(cellStep_edge hrr hr).rGen, hhit]; exact hgu⟩

/-! Counting publishes. -/

/-- `n` publishes since the reader was last at generation `g`: the frame is fresh exactly if there was
one, and the generation counts them (R32, R170). -/
def PublishesSince (g n : Nat) (s : State) : Prop :=
  (s.lv.fresh = true ↔ n ≠ 0) ∧ s.lv.gen = if n = 0 then g else (g + n) % 2 ^ s.cfg.genW

/-- One more publish: `gen +G 1` of the count before it. -/
theorem nextGen_of_publishesSince {g n : Nat} (h : PublishesSince g n s) :
    nextGen s = (g + (n + 1)) % 2 ^ s.cfg.genW := by
  rw [nextGen, addG, h.2]
  split
  · next hn => rw [hn]
  · rw [Nat.mod_add_mod, Nat.add_assoc]

/-- Without a hit an edge adds its own publish to the count. -/
theorem PublishesSince.edge {g n : Nat} (hs : PublishesSince g n s) (hrst : swRst w = false)
    (h : edge w s = .next t) (hhit : t.lv.rdHit = false) :
    PublishesSince g (n + (publishedOn t).toNat) t := by
  have hstep := cellStep_edge hrst h
  rw [PublishesSince, hstep.fresh, hstep.gen, edge_cfg h, hhit]
  cases publishedOn t with
  | true => simp [nextGen_of_publishesSince hs]
  | false => simpa [PublishesSince] using hs

/-- After an edge with a hit the reader is at the generation before it, and the edge's own publish is the
first since. -/
theorem publishesSince_hit (h : edge w s = .next t) (hhit : t.lv.rdHit = true) :
    PublishesSince t.lv.rGen (publishedOn t).toNat t := by
  have hstep := cellStep_edge (rdHit_running h hhit) h
  rw [PublishesSince, hstep.fresh, hstep.gen, hstep.rGen, hhit, edge_cfg h]
  cases publishedOn t <;> simp [nextGen, addG]

theorem toNat_add_length_filter {α : Type} (p : α → Bool) (x : α) (xs : List α) :
    (p x).toNat + (xs.filter p).length = ((x :: xs).filter p).length := by
  cases hp : p x <;> simp [hp, Nat.add_comm]

theorem PublishesSince.feed {g n : Nat} (hs : PublishesSince g n s) (hrst : ∀ x ∈ ws, swRst x = false)
    (hq : ∀ x ∈ statesAfter ws s, x.lv.rdHit = false) (h : feed ws s = .next t) :
    PublishesSince g (n + ((statesAfter ws s).filter publishedOn).length) t := by
  induction ws generalizing s n with
  | nil => cases h; exact hs
  | cons w ws ih =>
    obtain ⟨x, hx, hws⟩ := feed_cons_next h
    rw [statesAfter_cons hx] at hq ⊢
    obtain ⟨hhit, hq⟩ := List.forall_mem_cons.1 hq
    obtain ⟨hr, hrst⟩ := List.forall_mem_cons.1 hrst
    rw [← toNat_add_length_filter, ← Nat.add_assoc]
    exact ih (hs.edge hr hx hhit) hrst hq hws

/-- Settles O52: the publishes are counted from the first hit's own edge on; the second hit finds a fresh
frame, so there was one, and takes the generation reached. -/
theorem hitsAreMonotonic : Obligations.HitsAreMonotonic := by
  intro s t u v w r ws hw hhit hws hrst hnohit hr hhitv n
  have hn : n = (publishedOn t).toNat + ((statesAfter ws t).filter publishedOn).length :=
    (toNat_add_length_filter publishedOn t (statesAfter ws t)).symm
  obtain ⟨hfresh, hgen⟩ : PublishesSince t.lv.rGen n u :=
    hn ▸ (publishesSince_hit hw hhit).feed hrst hnohit hws
  have hstep := cellStep_edge (rdHit_running hr hhitv) hr
  have hpos : n ≠ 0 := hfresh.1 (hstep.hitFresh hhitv)
  rw [hstep.rGen, hhitv, if_pos rfl, hgen, if_neg hpos, feed_cfg hws, edge_cfg hw]
  exact ⟨Nat.one_le_iff_ne_zero.2 hpos, rfl⟩

/-- The counts of R170 stand in the cell: `fresh` compares them, and both generations are the counts
modulo 2^GEN_W. -/
structure CursorInv (n : Cursor) (s : State) : Prop where
  behind : n.atLastHit ≤ n.publishes
  fresh : s.lv.fresh = true ↔ n.publishes ≠ n.atLastHit
  hasValue : s.lv.hasValue = true ↔ n.publishes ≠ 0
  gen : s.lv.gen = n.publishes % 2 ^ s.cfg.genW
  rGen : s.lv.rGen = n.atLastHit % 2 ^ s.cfg.genW

theorem CursorInv.reset : CursorInv { publishes := 0, atLastHit := 0 }
    { s with fs := FsRegs.reset, lv := LvRegs.reset } := by
  constructor <;> simp [LvRegs.reset]

theorem CursorInv.edge {n : Cursor} (hinv : CursorInv n s) (h : edge w s = .next t) :
    CursorInv (n.next w t) t := by
  cases hrst : swRst w with
  | true =>
    rw [edge_reset s hrst] at h
    cases h
    rw [Cursor.next, if_pos hrst]
    exact CursorInv.reset
  | false =>
    have hstep := cellStep_edge hrst h
    obtain ⟨hle, hf, hv, hg, hr⟩ := hinv
    have hnext : nextGen s = (n.publishes + 1) % 2 ^ s.cfg.genW := by
      rw [nextGen, addG, hg, Nat.mod_add_mod]
    rw [Cursor.next, if_neg (by simp [hrst])]
    refine ⟨?_, ?_, ?_, ?_, ?_⟩
    · show (if t.lv.rdHit = true then _ else _) ≤ if publishedOn t = true then _ else _
      split <;> split <;> omega
    · rw [hstep.fresh, Bool.or_eq_true, Bool.and_eq_true, hf]
      cases publishedOn t <;> cases t.lv.rdHit <;> simp
      omega
    · rw [hstep.hasValue, Bool.or_eq_true, hv]
      cases publishedOn t <;> simp
    · rw [hstep.gen, hnext, hg, edge_cfg h]
      split <;> rfl
    · rw [hstep.rGen, hg, hr, edge_cfg h]
      split <;> rfl

theorem CursorInv.feed {n : Cursor} (hinv : CursorInv n s) (h : feed ws s = .next t) :
    CursorInv (cursorAfter ws s n) t := by
  induction ws generalizing s n with
  | nil => cases h; exact hinv
  | cons w ws ih =>
    obtain ⟨x, hx, hws⟩ := feed_cons_next h
    rw [cursorAfter, hx]
    exact ih (hinv.edge hx) hws

/-- Settles O56: the counts and the cell agree at reset and over every edge. -/
theorem freshIsTheReadersCursor : Obligations.FreshIsTheReadersCursor := by
  intro c ws t h
  have hn := (CursorInv.reset (s := State.resetOf c)).feed h
  obtain ⟨-, hf, hv, hg, hr⟩ := hn
  rw [feed_cfg h] at hg hr
  exact ⟨hf, hv, hg, hr⟩

/-! The monitor of the byte stream. -/

/-- The monitor's open bytes are the bytes taken, whatever the edge. -/
theorem openBytes_edge (mon : Monitor) (hopen : mon.openBytes = taken s) (h : edge w s = .next t) :
    (mon.next w s).openBytes = taken t := by
  cases hrst : swRst w with
  | true =>
    rw [edge_reset s hrst] at h
    cases h
    rw [taken_of_seek rfl, Monitor.next, fsInstr_eq, hrst]
    rfl
  | false =>
    obtain ⟨f, m, pub, l, hf, hl, rfl⟩ := edge_next_running hrst h
    rw [taken_after hf hl, Monitor.next, fsInstr_eq, hrst, ← hopen]
    cases swErr w with
    | true => rfl
    | false =>
      cases swValid w with
      | true => cases s.fs.state <;> rfl
      | false => cases hs : s.fs.state <;> simp [hopen, taken_of_seek, taken_of_illegal, hs]

/-- The monitor accepts exactly what the block publishes: the bytes taken when the checksum matches their
sum. -/
theorem accepted_edge (hinv : R40 s) (mon : Monitor) (hopen : mon.openBytes = taken s)
    (hrst : swRst w = false) (h : edge w s = .next t) :
    (mon.next w s).accepted =
      if publishedOn t then slotFrame s s.lv.wIdx :: mon.accepted else mon.accepted := by
  obtain ⟨f, m, pub, l, hf, -, rfl⟩ := edge_next_running hrst h
  have hsum := hinv.sum_eq
  rw [publishedOn_after hf, Monitor.next]
  cases hf with
  | terr he => rw [fsInstr_terr _ hrst he]; rfl
  | ill he hs => exact absurd hs hinv.legalState
  | idle he hv hs =>
    rw [fsInstr_eq, hrst, he, hv]
    cases hst : s.fs.state with
    | illegal => exact absurd hst hs
    | _ => rfl
  | markerDone he hv hs | markerNext he hv hs | restart he hv hs | discard he hv hs
  | payload a he hv hs | payloadLast a he hv hs => rw [fsInstr_byte _ hrst he hv, hs]; rfl
  | accept he hv hs hb =>
    rw [fsInstr_byte _ hrst he hv, hs]
    simp [hopen, hb, hsum, ← taken_of_checksum hs]
  | reject he hv hs hb =>
    rw [fsInstr_byte _ hrst he hv, hs]
    simp [hopen, ← hsum, hb]

/-- The observer and the block agree: the open bytes, the latest frame, and that a frame shown was
accepted (R74). -/
structure MonitorInv (mon : Monitor) (s : State) : Prop where
  inv : R40 s
  openBytes : mon.openBytes = taken s
  latest : mon.accepted.head? = latestFrame s
  shown : s.lv.rSeen = true → rdFrame s ∈ mon.accepted

theorem MonitorInv.reset (h : s.cfg.wellFormed = true) :
    MonitorInv Monitor.start { s with fs := FsRegs.reset, lv := LvRegs.reset } :=
  ⟨r40_reset h, (taken_of_seek rfl).symm, rfl, nofun⟩

theorem MonitorInv.edge {mon : Monitor} (hm : MonitorInv mon s) (h : edge w s = .next t) :
    MonitorInv (mon.next w s) t := by
  obtain ⟨hinv, hopen, hlatest, hshown⟩ := hm
  cases hrst : swRst w with
  | true =>
    rw [edge_reset s hrst] at h
    cases h
    rw [Monitor.next, fsInstr_eq, hrst]
    exact MonitorInv.reset hinv.built
  | false =>
    have hacc := accepted_edge hinv mon hopen hrst h
    have hkept : ∀ x ∈ mon.accepted, x ∈ (mon.next w s).accepted := fun x hx => by
      rw [hacc]; split
      · exact List.mem_cons_of_mem _ hx
      · exact hx
    refine ⟨hinv.edge h, openBytes_edge mon hopen h, ?_, fun hseen => hkept _ ?_⟩
    · rw [hacc, latestFrame_edge hinv hrst h, ← hlatest]
      split <;> rfl
    · cases hrd : swRd w with
      | false =>
        obtain ⟨hframe, hs⟩ := rdFrame_edge_noRead hinv hrst hrd h
        rw [hframe]
        exact hshown (hs ▸ hseen)
      | true =>
        have hhas : s.lv.hasValue = true := by
          have hstep := cellStep_edge hrst h
          rw [hstep.rSeen, Bool.or_eq_true] at hseen
          obtain hhit | hold := hseen
          · exact hinv.freshHasValue (hstep.hitFresh hhit)
          · exact hinv.seenHasValue hold
        rw [rdFrame_edge_read hinv hrst hrd h]
        rw [latestFrame_eq, if_pos hhas] at hlatest
        rw [latestFrame_eq, if_pos hhas]
        exact List.mem_of_head? hlatest

theorem MonitorInv.feed {mon : Monitor} (hm : MonitorInv mon s) (h : feed ws s = .next t) :
    MonitorInv (monitorAfter ws s mon) t := by
  induction ws generalizing s mon with
  | nil => cases h; exact hm
  | cons w ws ih =>
    obtain ⟨x, hx, hws⟩ := feed_cons_next h
    rw [monitorAfter, hx]
    exact ih (hm.edge hx) hws

theorem monitorInv_fromReset {c : Config} (hwf : c.wellFormed = true)
    (h : feed ws (State.resetOf c) = .next t) :
    MonitorInv (monitorAfter ws (State.resetOf c) Monitor.start) t :=
  (MonitorInv.reset (s := State.resetOf c) hwf).feed h

/-- Settles O54: the observer's invariant holds along every run from reset. -/
theorem shownFrameIsAnAcceptedPayload : Obligations.ShownFrameIsAnAcceptedPayload :=
  fun _ _ _ hwf h hseen => (monitorInv_fromReset hwf h).shown hseen

/-- Settles O55: the observer's newest payload is the latest frame, which a read shows. -/
theorem fetchGetsLatestOrFallback : Obligations.FetchGetsLatestOrFallback := by
  intro c ws w t u hwf h hrst hrd hu
  have hm := monitorInv_fromReset hwf h
  rw [rdFrame_edge_read hm.inv hrst hrd hu, hm.latest, feed_cfg h]
  rfl

end Sys2Proof.Machine
end

section
/-! Runs side by side (R63, R172, R186): what slot bytes and generation numbers cannot decide, and the
transaction view of the cell. -/

namespace Sys2Proof.Machine

variable {w : StimWord} {s s' t t' : State} {f : FsRegs} {m : Memory} {l : LvRegs} {pub rd : Bool}
  {ws : List StimWord}

/-- The cell's half reads the build and the cell's registers alone. -/
theorem LvCase.congr (h : LvCase s pub rd l) (hc : s'.cfg = s.cfg) (hlv : s'.lv = s.lv) :
    LvCase s' pub rd l := by
  have hg : nextGen s = nextGen s' := by rw [nextGen, nextGen, hc, hlv]
  cases h with
  | idle hp hd => rw [← hlv]; exact .idle hp hd
  | hit hp hd hf => rw [← hlv] at hf ⊢; exact .hit hp hd hf
  | miss hp hd hf => rw [← hlv] at hf ⊢; exact .miss hp hd hf
  | publish hp hd => rw [hg, ← hlv]; exact .publish hp hd
  | publishHit hp hd hf => rw [← hlv] at hf ⊢; rw [hg]; exact .publishHit hp hd hf
  | publishMiss hp hd hf => rw [← hlv] at hf ⊢; rw [hg]; exact .publishMiss hp hd hf

/-! Slot bytes (R63). -/

/-- The FS's half reads no slot byte: over other slots it leaves the same registers. -/
theorem FsCase.withSlots (h : FsCase w s f m pub) (m' : Memory) (is : List StimWord) (c : Nat) :
    ∃ m'', FsCase w { s with slots := m', inputs := is, cycle := c } f m'' pub := by
  cases h with
  | terr he => exact ⟨_, .terr he⟩
  | ill he hs => exact ⟨_, .ill he hs⟩
  | idle he hv hs => exact ⟨_, .idle he hv hs⟩
  | markerDone he hv hs hb hk => exact ⟨_, .markerDone he hv hs hb hk⟩
  | markerNext he hv hs hb hk => exact ⟨_, .markerNext he hv hs hb hk⟩
  | restart he hv hs hb h0 => exact ⟨_, .restart he hv hs hb h0⟩
  | discard he hv hs hb h0 => exact ⟨_, .discard he hv hs hb h0⟩
  | payload a he hv hs ha hk => exact ⟨_, .payload a he hv hs ha hk⟩
  | payloadLast a he hv hs ha hk => exact ⟨_, .payloadLast a he hv hs ha hk⟩
  | accept he hv hs hb => exact ⟨_, .accept he hv hs hb⟩
  | reject he hv hs hb => exact ⟨_, .reject he hv hs hb⟩

theorem taken_eq_map (s : State) :
    taken s = (List.range (min (bytesTaken s) s.cfg.plen)).map (slotByte s s.lv.wIdx) := by
  rw [taken, slotFrame, ← List.map_take, List.take_range]

theorem R40.bytesTaken_le (hinv : R40 s) : bytesTaken s ≤ s.cfg.plen := by
  have := hinv.pcntBelowPlen
  unfold bytesTaken
  split <;> omega

/-- Two states with the same registers agree on the back slot's taken bytes exactly if these are the same
byte sequence. -/
theorem taken_eq_iff (hle : bytesTaken s ≤ s.cfg.plen) (hc : s.cfg = s'.cfg) (hfs : s.fs = s'.fs)
    (hlv : s.lv = s'.lv) :
    taken s = taken s' ↔ ∀ k < bytesTaken s, slotByte s s.lv.wIdx k = slotByte s' s.lv.wIdx k := by
  have hb : bytesTaken s' = bytesTaken s := by rw [bytesTaken, bytesTaken, hc, hfs]
  rw [taken_eq_map, taken_eq_map, hb, ← hc, ← hlv, Nat.min_eq_left hle, List.map_inj_left]
  simp only [List.mem_range]

/-- One edge keeps the agreement: a slot byte is shown only after it was taken, published and read, and at
each of these the two states agree on it. -/
theorem AgreeOnShown.edge (hag : AgreeOnShown s s') (hinv : R40 s) (h : edge w s = .next t) :
    ∃ t', edge w s' = .next t' ∧ AgreeOnShown t t' := by
  have hinvt := hinv.edge h
  obtain ⟨hc, hfs, hlv, hback, hmid, hread⟩ := hag
  have htaken := (taken_eq_iff hinv.bytesTaken_le hc hfs hlv).2 hback
  obtain ⟨c', fs', lv', m', is', cy'⟩ := s'
  simp only at hc hfs hlv
  subst hc hfs hlv
  obtain ⟨hrst, rfl⟩ | ⟨hrst, f, m, pub, l, hf, hl, rfl⟩ := edge_next h
  · exact ⟨_, edge_reset _ hrst, rfl, rfl, rfl, nofun, nofun, nofun⟩
  · obtain ⟨m₂, hf'⟩ := hf.withSlots m' is' cy'
    have hl' := hl.congr (s' := { s with slots := m', inputs := is', cycle := cy' }) rfl rfl
    refine ⟨_, edge_of_cases hrst hf' hl', rfl, rfl, rfl, ?_, fun hfresh => ?_, fun hseen => ?_⟩
    · refine (taken_eq_iff (s' := { s with fs := f, lv := l, slots := m₂, inputs := is', cycle := cy' })
        hinvt.bytesTaken_le rfl rfl rfl).1 ?_
      rw [taken_after hf hl, taken_after hf' hl', htaken]
    · obtain ⟨rfl, hm⟩ | ⟨-, hold, hm⟩ := hl.slot_origin.1 hfresh <;> simp only [hm]
      · obtain ⟨-, -, hs, -, -, rfl⟩ := hf.of_publish
        obtain ⟨-, -, -, -, -, rfl⟩ := hf'.of_publish
        exact (taken_of_checksum hs).symm.trans (htaken.trans (taken_of_checksum hs))
      · obtain ⟨-, -, -, hwm, -, -⟩ := hinv.indices
        rw [hf.slotFrame_other hwm.symm, hf'.slotFrame_other (l := l) hwm.symm]
        exact hmid hold
    · obtain ⟨-, -, -, hwm, hwr, -⟩ := hinv.indices
      obtain ⟨hfresh, hr⟩ | ⟨hold, hr⟩ := hl.slot_origin.2 hseen <;> simp only [hr]
      · rw [hf.slotFrame_other hwm.symm, hf'.slotFrame_other (l := l) hwm.symm]
        exact hmid hfresh
      · rw [hf.slotFrame_other hwr.symm, hf'.slotFrame_other (l := l) hwr.symm]
        exact hread hold

theorem AgreeOnShown.ports_eq (h : AgreeOnShown s s') : s.ports = s'.ports := by
  have hframe : rdFrame s = rdFrame s' := by
    cases hseen : s.lv.rSeen with
    | true => rw [rdFrame_of_seen hseen, rdFrame_of_seen (h.lv ▸ hseen), h.reader hseen, h.lv]
    | false => rw [rdFrame_of_unseen hseen, rdFrame_of_unseen (h.lv ▸ hseen), h.cfg]
  simp only [State.ports, h.fs, h.lv, hframe]

/-- Settles O58: the agreement is kept along the run, and agreeing states show the same on every port. -/
theorem hiddenSlotBytesNeverShow : Obligations.HiddenSlotBytesNeverShow := by
  intro ws
  induction ws with
  | nil => intro s s' t _ hag h; cases h; exact ⟨s', rfl, hag.ports_eq, hag⟩
  | cons w ws ih =>
    intro s s' t hinv hag h
    obtain ⟨x, hx, hws⟩ := feed_cons_next h
    obtain ⟨x', hx', hag'⟩ := hag.edge hinv hx
    obtain ⟨t', ht', hrest⟩ := ih x x' t (hinv.edge hx) hag' hws
    exact ⟨t', (feed_cons hx' ws).trans ht', hrest⟩

/-! Generation numbers (R172). -/

/-- `s` with other generation numbers. -/
def withGens (e g r : Nat) (s : State) : State :=
  { s with fs := { s.fs with evGen := e }, lv := { s.lv with gen := g, rGen := r } }

/-- States that differ only in generation numbers: the one is the other with its numbers replaced. -/
theorem eq_withGens (h : forgetGen s = forgetGen s') :
    s' = withGens s'.fs.evGen s'.lv.gen s'.lv.rGen s := by
  have hback : withGens s'.fs.evGen s'.lv.gen s'.lv.rGen (forgetGen s) =
      withGens s'.fs.evGen s'.lv.gen s'.lv.rGen (forgetGen s') := by rw [h]
  exact hback.symm

/-- No case of the FS's half is chosen by a generation number. -/
theorem FsCase.withGens (h : FsCase w s f m pub) (e g r : Nat) :
    ∃ e', FsCase w (withGens e g r s) { f with evGen := e' } m pub := by
  cases h with
  | terr he => exact ⟨_, .terr he⟩
  | ill he hs => exact ⟨_, .ill he hs⟩
  | idle he hv hs => exact ⟨_, .idle he hv hs⟩
  | markerDone he hv hs hb hk => exact ⟨_, .markerDone he hv hs hb hk⟩
  | markerNext he hv hs hb hk => exact ⟨_, .markerNext he hv hs hb hk⟩
  | restart he hv hs hb h0 => exact ⟨_, .restart he hv hs hb h0⟩
  | discard he hv hs hb h0 => exact ⟨_, .discard he hv hs hb h0⟩
  | payload a he hv hs ha hk => exact ⟨_, .payload a he hv hs ha hk⟩
  | payloadLast a he hv hs ha hk => exact ⟨_, .payloadLast a he hv hs ha hk⟩
  | accept he hv hs hb => exact ⟨_, .accept he hv hs hb⟩
  | reject he hv hs hb => exact ⟨_, .reject he hv hs hb⟩

theorem LvCase.withGens (h : LvCase s pub rd l) (e g r : Nat) :
    ∃ g' r', LvCase (withGens e g r s) pub rd { l with gen := g', rGen := r' } := by
  cases h with
  | idle hp hd => exact ⟨_, _, .idle hp hd⟩
  | hit hp hd hf => exact ⟨_, _, .hit hp hd hf⟩
  | miss hp hd hf => exact ⟨_, _, .miss hp hd hf⟩
  | publish hp hd => exact ⟨_, _, .publish hp hd⟩
  | publishHit hp hd hf => exact ⟨_, _, .publishHit hp hd hf⟩
  | publishMiss hp hd hf => exact ⟨_, _, .publishMiss hp hd hf⟩

theorem edge_forgetGen (hs : forgetGen s = forgetGen s') (h : edge w s = .next t) :
    ∃ t', edge w s' = .next t' ∧ forgetGen t = forgetGen t' := by
  rw [eq_withGens hs]
  obtain ⟨hrst, rfl⟩ | ⟨hrst, f, m, pub, l, hf, hl, rfl⟩ := edge_next h
  · exact ⟨_, edge_reset _ hrst, rfl⟩
  · obtain ⟨e, hf'⟩ := hf.withGens s'.fs.evGen s'.lv.gen s'.lv.rGen
    obtain ⟨g, r, hl'⟩ := hl.withGens s'.fs.evGen s'.lv.gen s'.lv.rGen
    exact ⟨_, edge_of_cases hrst hf' hl', rfl⟩

/-- Settles O57: edge by edge the same cases are taken. -/
theorem generationDecidesNothing : Obligations.GenerationDecidesNothing := by
  intro ws
  induction ws with
  | nil => intro s s' t hs h; cases h; exact ⟨s', rfl, hs⟩
  | cons w ws ih =>
    intro s s' t hs h
    obtain ⟨x, hx, hws⟩ := feed_cons_next h
    obtain ⟨x', hx', hag⟩ := edge_forgetGen hs hx
    obtain ⟨t', ht', hrest⟩ := ih x x' t hag hws
    exact ⟨t', (feed_cons hx' ws).trans ht', hrest⟩

/-! The transaction view (R185, R186). -/

/-- A payload byte stored in the back slot is the view's payload write: by (I-a) no other slot is mapped. -/
theorem cellView_store {a : Nat} (hcell : CellInv s.lv) (ha : slotAddr s.cfg s.lv.wIdx s.fs.pcnt = some a)
    (b : Byte) (f : FsRegs) :
    cellView { s with fs := f, slots := Memory.write s.slots a b } = (cellView s).store s.fs.pcnt b := by
  obtain ⟨-, -, -, hwm, hwr, -⟩ := hcell.indices
  simp only [cellView, CellView.store, latestFrame, slotFrame_after_same f s.lv ha b,
    slotFrame_after_other f s.lv ha b hwm.symm, slotFrame_after_other f s.lv ha b hwr.symm]

/-- The FS's half, mapped: a payload byte writes `pbuf`, no other operation touches the view. -/
theorem cellView_fsOp (hcell : CellInv s.lv) (hrst : swRst w = false) (hf : FsCase w s f m pub) :
    cellView { s with fs := f, slots := m } = (cellView s).fsOp (fsInstr w s.fs.state) s.fs.pcnt := by
  cases hf with
  | terr he => rw [fsInstr_terr _ hrst he]; rfl
  | ill he hs => rw [hs, fsInstr_illegal hrst he]; rfl
  | idle he hv hs =>
    rw [fsInstr_eq, hrst, he, hv]
    cases hst : s.fs.state with
    | illegal => exact absurd hst hs
    | _ => rfl
  | markerDone he hv hs | markerNext he hv hs | restart he hv hs | discard he hv hs
  | accept he hv hs | reject he hv hs => rw [fsInstr_byte _ hrst he hv, hs]; rfl
  | payload a he hv hs ha | payloadLast a he hv hs ha =>
    rw [fsInstr_byte _ hrst he hv, hs]; exact cellView_store hcell ha _ _

theorem CellView.tryRead_hit {v : CellView} {p : List Byte} (hf : v.fresh = true) (hp : v.latest = some p) :
    v.tryRead = ({ v with held := some (p, v.gen), fresh := false }, true) := by
  obtain ⟨pbuf, latest, fresh, gen, held⟩ := v
  cases hf; cases hp; rfl

theorem CellView.tryRead_miss {v : CellView} (hf : v.fresh = false) : v.tryRead = (v, false) := by
  obtain ⟨pbuf, latest, fresh, gen, held⟩ := v
  cases hf; rfl

/-- A fresh cell has a latest frame, the middle slot's (R186). -/
theorem cellView_latest (hcell : CellInv s.lv) (hf : s.lv.fresh = true) :
    (cellView s).latest = some (slotFrame s s.lv.mIdx) := by
  simp [cellView, latestFrame, hf, hcell.freshHasValue hf]

/-- The LV's half, mapped: the view's cell operation, with the new back slot as the undefined `pbuf`. -/
theorem cellView_lvOp (hcell : CellInv s.lv) (hrst : swRst w = false) (hl : LvCase s pub (swRd w) l) :
    (cellView s).lvOp s.cfg (slotFrame s l.wIdx) (lvInstr w pub) = (cellView { s with lv := l }, l.rdHit) := by
  rw [lvInstr_eq, hrst]
  cases hl with
  | idle hp hd => rw [hp, hd]; rfl
  | hit hp hd hf =>
    rw [hp, hd]
    refine (CellView.tryRead_hit hf (cellView_latest hcell hf)).trans ?_
    simp [cellView, latestFrame, hf, hcell.freshHasValue hf, slotFrame_after_none]
  | miss hp hd hf => rw [hp, hd]; exact CellView.tryRead_miss hf
  | publish hp hd => rw [hp, hd]; rfl
  | publishHit hp hd hf =>
    rw [hp, hd]
    simp only [CellView.lvOp, CellView.tryRead_hit hf (cellView_latest hcell hf)]
    rfl
  | publishMiss hp hd hf =>
    rw [hp, hd]
    simp only [CellView.lvOp, CellView.tryRead_miss (v := cellView s) hf]
    rfl

/-- `rd_frame` is the view's (R175, R186). -/
theorem rdFrame_cellView (s : State) : rdFrame s = (cellView s).rdFrame s.cfg := by
  cases hseen : s.lv.rSeen with
  | true => simp [rdFrame, CellView.rdFrame, cellView, hseen]
  | false => simp [rdFrame, CellView.rdFrame, cellView, hseen]

/-- Settles O59: the FS's half first, then the cell's on its result, as the view does them. -/
theorem cellRefinesTransactionView : Obligations.CellRefinesTransactionView := by
  intro w s t hinv h
  have hcell := hinv.cell
  refine ⟨?_, rdFrame_cellView t⟩
  obtain ⟨hrst, rfl⟩ | ⟨hrst, f, m, pub, l, hf, hl, rfl⟩ := edge_next h
  · rw [edgeOps_reset s hrst]
    exact ⟨_, slotFrame_length s 0, rfl, rfl⟩
  · have hops : edgeOps w s = { fs := fsInstr w s.fs.state, lv := lvInstr w pub } := by
      rw [edgeOps, (hf.exec_eq hrst).2]
    have hl' := hl.congr (s' := { s with fs := f, slots := m }) rfl rfl
    have hlv := cellView_lvOp (s := { s with fs := f, slots := m }) hcell hrst hl'
    simp only [hops, ← cellView_fsOp hcell hrst hf]
    exact ⟨slotFrame { s with fs := f, slots := m } l.wIdx, slotFrame_length _ _, (congrArg Prod.fst hlv).symm,
      (congrArg Prod.snd hlv).symm⟩

end Sys2Proof.Machine
end

section
/-! The FS's half by what the cycle presents and the state it meets (R134): one inversion of `FsCase` for
each row of the sequencer's table. -/

namespace Sys2Proof.Machine

variable {w : StimWord} {s : State} {f : FsRegs} {m : Memory} {pub : Bool}

/-- A transport error (R128). -/
theorem FsCase.error_eq (h : FsCase w s f m pub) (herr : swErr w = true) : f.state = .seek ∧ f.midx = 0 := by
  cases h with
  | terr => exact ⟨rfl, rfl⟩
  | ill he | idle he | markerDone he | markerNext he | restart he | discard he | payload _ he
  | payloadLast _ he | accept he | reject he => simp [herr] at he

/-- The illegal state code (R129). -/
theorem FsCase.illegal_eq (h : FsCase w s f m pub) (hs : s.fs.state = .illegal) :
    f.state = .seek ∧ f.midx = 0 := by
  cases h with
  | terr | ill => exact ⟨rfl, rfl⟩
  | idle _ _ hs' => exact absurd hs hs'
  | markerDone _ _ hs' | markerNext _ _ hs' | restart _ _ hs' | discard _ _ hs' | payload _ _ _ hs'
  | payloadLast _ _ _ hs' | accept _ _ hs' | reject _ _ hs' => simp [hs] at hs'

/-- A quiet cycle without a byte touches the event strobe alone (R121 to R123). -/
theorem FsCase.idle_eq (h : FsCase w s f m pub) (herr : swErr w = false) (hv : swValid w = false)
    (hs : s.fs.state ≠ .illegal) : f = { s.fs with evValid := false } ∧ m = s.slots ∧ pub = false := by
  cases h with
  | terr he => simp [herr] at he
  | ill _ hs' => exact absurd hs' hs
  | idle => exact ⟨rfl, rfl, rfl⟩
  | markerDone _ hv' | markerNext _ hv' | restart _ hv' | discard _ hv' | payload _ _ hv'
  | payloadLast _ _ hv' | accept _ hv' | reject _ hv' => simp [hv] at hv'

/-- The partial match after a byte, none once the marker is complete (R124). -/
def seekNext (m : Magic) (k : MarkerIdx) (b : Byte) : Option MarkerIdx :=
  if b = magicAt m k then if k = 3 then none else some (k + 1) else some (if b = m.m0 then 1 else 0)

/-- A byte in SEEK, said through `seekNext` (R124). -/
theorem FsCase.seek_eq (h : FsCase w s f m pub) (herr : swErr w = false) (hv : swValid w = true)
    (hs : s.fs.state = .seek) : pub = false ∧ f.evValid = false ∧
      match seekNext s.cfg.magic s.fs.midx (swData w) with
      | some k => f.state = .seek ∧ f.midx = k
      | none => f.state = .payload ∧ f.pcnt = 0 ∧ f.sum = 0 := by
  cases h with
  | terr he => simp [herr] at he
  | ill _ hs' => simp [hs] at hs'
  | idle _ hv' => simp [hv] at hv'
  | markerDone _ _ _ hb hk => simp_all [seekNext, markerOperand]
  | markerNext _ _ _ hb hk => simp_all [seekNext, markerOperand]
  | restart _ _ _ hb h0 => simp_all [seekNext, markerOperand, markerStart]
  | discard _ _ _ hb h0 => simp_all [seekNext, markerOperand, markerStart]
  | payload _ _ _ hs' | payloadLast _ _ _ hs' => simp [hs] at hs'
  | accept _ _ hs' | reject _ _ hs' => simp [hs] at hs'

/-- A byte in PAYLOAD: the last one leads to CHECKSUM (R126). -/
theorem FsCase.payload_eq (h : FsCase w s f m pub) (herr : swErr w = false) (hv : swValid w = true)
    (hs : s.fs.state = .payload) : pub = false ∧ f.evValid = false ∧ f.midx = s.fs.midx ∧
      f.state = (if s.fs.pcnt + 1 = s.cfg.plen then .checksum else .payload) ∧
      f.pcnt = (if s.fs.pcnt + 1 = s.cfg.plen then 0 else s.fs.pcnt + 1) ∧ s.fs.pcnt < s.cfg.plen := by
  cases h with
  | terr he => simp [herr] at he
  | ill _ hs' => simp [hs] at hs'
  | idle _ hv' => simp [hv] at hv'
  | markerDone _ _ hs' | markerNext _ _ hs' | restart _ _ hs' | discard _ _ hs' => simp [hs] at hs'
  | payload _ _ _ _ ha hk => simp [hk, hs, (slotAddr_eq_some.1 ha).2.1]
  | payloadLast _ _ _ _ ha hk => simp [hk, (slotAddr_eq_some.1 ha).2.1]
  | accept _ _ hs' | reject _ _ hs' => simp [hs] at hs'

/-- The checksum byte, whether it matches or not (R127). -/
theorem FsCase.checksum_eq (h : FsCase w s f m pub) (herr : swErr w = false) (hv : swValid w = true)
    (hs : s.fs.state = .checksum) : f.state = .seek ∧ f.midx = 0 ∧ f.pcnt = 0 ∧ f.evValid = true := by
  cases h with
  | terr he => simp [herr] at he
  | ill _ hs' => simp [hs] at hs'
  | idle _ hv' => simp [hv] at hv'
  | markerDone _ _ hs' | markerNext _ _ hs' | restart _ _ hs' | discard _ _ hs' => simp [hs] at hs'
  | payload _ _ _ hs' | payloadLast _ _ _ hs' => simp [hs] at hs'
  | accept | reject => exact ⟨rfl, rfl, rfl, rfl⟩

end Sys2Proof.Machine
end

section
/-! The byte stream without slots (R90, R124 to R127, R136): a receiver that knows only how far into a
message it is, the latest frame and the generation. Under R40 every quiet run of the block is the
receiver's run over the bytes presented; what a whole message does is then a fact about byte lists. -/

namespace Sys2Proof.Machine

variable {w : StimWord} {s t u : State} {f : FsRegs} {m : Memory} {l : LvRegs} {pub rd : Bool}
  {us vs ws : List StimWord}

/-! The receiver. -/

/-- Where the receiver is: with `k` marker bytes matched, or with the payload bytes `p` taken. -/
inductive Phase where
  | seeking (k : MarkerIdx)
  | taking (p : List Byte)

structure Receiver where
  phase : Phase
  latest : Option (List Byte)
  gen : Nat

def seekPhase : Option MarkerIdx → Phase
  | some k => .seeking k
  | none => .taking []

/-- The receiver after a byte (R124, R126, R127). -/
def Receiver.next (c : Config) (r : Receiver) (b : Byte) : Receiver :=
  match r.phase with
  | .seeking k => { r with phase := seekPhase (seekNext c.magic k b) }
  | .taking p =>
    if p.length < c.plen then { r with phase := .taking (p ++ [b]) }
    else if b = sum8 p then { phase := .seeking 0, latest := some p, gen := addG c r.gen 1 }
    else { r with phase := .seeking 0 }

/-- The event that a byte makes the receiver report (R200, R201). -/
def Receiver.report (c : Config) (r : Receiver) (b : Byte) : Option (EvKind × Nat) :=
  match r.phase with
  | .seeking _ => none
  | .taking p =>
    if p.length < c.plen then none
    else if b = sum8 p then some (.frameOk, addG c r.gen 1)
    else some (.checksumMismatch, r.gen)

/-- The receiver after a byte sequence. -/
def Receiver.after (c : Config) (r : Receiver) (bs : List Byte) : Receiver := bs.foldl (Receiver.next c) r

/-- The events over a byte sequence. -/
def Receiver.log (c : Config) : Receiver → List Byte → List (EvKind × Nat)
  | _, [] => []
  | r, b :: bs => (r.report c b).toList ++ log c (r.next c b) bs

section Lists

variable {c : Config} {r : Receiver} {bs cs : List Byte} {b : Byte} {p q : List Byte}

theorem Receiver.after_append : r.after c (bs ++ cs) = (r.after c bs).after c cs := List.foldl_append

theorem Receiver.log_append : r.log c (bs ++ cs) = r.log c bs ++ (r.after c bs).log c cs := by
  induction bs generalizing r with
  | nil => rfl
  | cons b bs ih => simp only [List.cons_append, Receiver.log, ih, List.append_assoc]; rfl

/-- Payload bytes are taken without an event up to PLEN of them. -/
theorem Receiver.take_payload (hr : r.phase = .taking q) (hle : q.length + p.length ≤ c.plen) :
    r.after c p = { r with phase := .taking (q ++ p) } ∧ r.log c p = [] := by
  induction p generalizing r q with
  | nil => simp [Receiver.after, Receiver.log, ← hr]
  | cons b p ih =>
    rw [List.length_cons] at hle
    have hlt : q.length < c.plen := by omega
    have hnext : r.next c b = { r with phase := .taking (q ++ [b]) } := by
      simp only [Receiver.next, hr, if_pos hlt]
    have hrep : r.report c b = none := by simp only [Receiver.report, hr, if_pos hlt]
    obtain ⟨hafter, hlog⟩ := ih (r := r.next c b) (q := q ++ [b]) (by rw [hnext]) (by simp; omega)
    constructor
    · rw [Receiver.after, List.foldl_cons, ← Receiver.after, hafter, hnext, List.append_assoc]; rfl
    · rw [Receiver.log, hrep, hlog]; rfl

/-- The byte after a whole payload decides it (R127). -/
theorem Receiver.take_checksum (hr : r.phase = .taking p) (hp : p.length = c.plen) :
    r.after c [b] = (if b = sum8 p then { phase := .seeking 0, latest := some p, gen := addG c r.gen 1 }
      else { r with phase := .seeking 0 }) ∧
    r.log c [b] = [if b = sum8 p then (.frameOk, addG c r.gen 1) else (.checksumMismatch, r.gen)] := by
  have hlt : ¬ p.length < c.plen := by omega
  simp only [Receiver.after, Receiver.log, List.foldl_cons, List.foldl_nil, Receiver.next, Receiver.report, hr,
    if_neg hlt, true_and]
  split <;> rfl

/-! Seeking. -/

/-- The partial match over a byte sequence in which the marker is never completed. -/
def seekRun (m : Magic) (k : MarkerIdx) (bs : List Byte) : Option MarkerIdx := bs.foldlM (seekNext m) k

theorem seekRun_cons {m : Magic} {k k' : MarkerIdx} (h : seekRun m k (b :: bs) = some k') :
    ∃ j, seekNext m k b = some j ∧ seekRun m j bs = some k' := by
  simpa [seekRun, Option.bind_eq_some_iff] using h

theorem Receiver.seek {k k' : MarkerIdx} (hr : r.phase = .seeking k) (h : seekRun c.magic k bs = some k') :
    r.after c bs = { r with phase := .seeking k' } ∧ r.log c bs = [] := by
  induction bs generalizing r k with
  | nil =>
    obtain rfl : k = k' := Option.some_inj.1 h
    simp [Receiver.after, Receiver.log, ← hr]
  | cons b bs ih =>
    obtain ⟨j, hj, hrun⟩ := seekRun_cons h
    have hnext : r.next c b = { r with phase := .seeking j } := by
      simp only [Receiver.next, hr, hj, seekPhase]
    have hrep : r.report c b = none := by simp only [Receiver.report, hr]
    obtain ⟨hafter, hlog⟩ := ih (r := r.next c b) (by rw [hnext]) hrun
    constructor
    · rw [Receiver.after, List.foldl_cons, ← Receiver.after, hafter, hnext]
    · rw [Receiver.log, hrep, hlog]; rfl

/-- From a clean start the bytes `x` complete the marker with their last byte and not before. -/
def OpensMessage (m : Magic) (x : List Byte) : Prop :=
  ∃ y b k, x = y ++ [b] ∧ seekRun m 0 y = some k ∧ seekNext m k b = none

/-- The marker itself opens a message, whatever its bytes are. -/
theorem opensMessage_magic (m : Magic) : OpensMessage m m.bytes :=
  ⟨[m.m0, m.m1, m.m2], m.m3, 3, rfl, by simp [seekRun, seekNext, magicAt], by simp [seekNext, magicAt]⟩

theorem Receiver.open_message {x : List Byte} (hr : r.phase = .seeking 0) (hx : OpensMessage c.magic x) :
    r.after c x = { r with phase := .taking [] } ∧ r.log c x = [] := by
  obtain ⟨y, b, k, rfl, hy, hb⟩ := hx
  obtain ⟨hafter, hlog⟩ := Receiver.seek hr hy
  rw [Receiver.after_append, Receiver.log_append, hafter, hlog]
  simp [Receiver.after, Receiver.next, Receiver.log, Receiver.report, hb, seekPhase]

/-- What opens a message, then PLEN bytes: no event yet, and the bytes are taken. -/
theorem Receiver.take_body {x : List Byte} (hr : r.phase = .seeking 0) (hx : OpensMessage c.magic x)
    (hp : p.length = c.plen) :
    r.after c (x ++ p) = { r with phase := .taking p } ∧ r.log c (x ++ p) = [] := by
  obtain ⟨hopen, hlog⟩ := Receiver.open_message hr hx
  obtain ⟨hbody, hlog'⟩ :=
    Receiver.take_payload (c := c) (r := { r with phase := .taking [] }) (q := []) (p := p) rfl (by simp [hp])
  rw [Receiver.after_append, Receiver.log_append, hopen, hlog, hlog', hbody]
  exact ⟨rfl, rfl⟩

/-- A whole message: one event, with the last byte, and the payload latest if the checksum is right. -/
theorem Receiver.take_message {x : List Byte} {k : Byte} (hr : r.phase = .seeking 0)
    (hx : OpensMessage c.magic x) (hp : p.length = c.plen) :
    r.after c (x ++ p ++ [k]) = (if k = sum8 p then
      { phase := .seeking 0, latest := some p, gen := addG c r.gen 1 } else r) ∧
    r.log c (x ++ p ++ [k]) =
      [if k = sum8 p then (.frameOk, addG c r.gen 1) else (.checksumMismatch, r.gen)] := by
  obtain ⟨hbody, hlog⟩ := Receiver.take_body hr hx hp
  obtain ⟨hafter, hlog'⟩ :=
    Receiver.take_checksum (c := c) (r := { r with phase := .taking p }) (b := k) rfl hp
  rw [Receiver.after_append, Receiver.log_append, hbody, hlog, hafter, hlog', List.nil_append, ← hr]
  exact ⟨rfl, rfl⟩

end Lists

/-! The block is the receiver. -/

def phaseOf (s : State) : Phase :=
  match s.fs.state with
  | .seek => .seeking s.fs.midx
  | .illegal => .seeking s.fs.midx
  | .payload => .taking (taken s)
  | .checksum => .taking (taken s)

def receiverOf (s : State) : Receiver := { phase := phaseOf s, latest := latestFrame s, gen := s.lv.gen }

theorem startsClean_iff (h : s.fs.state ≠ .illegal) : startsClean s ↔ phaseOf s = .seeking 0 := by
  unfold startsClean phaseOf
  cases hs : s.fs.state <;> simp_all

theorem R40.length_taken (hinv : R40 s) : (taken s).length = bytesTaken s := by
  rw [taken, List.length_take, slotFrame_length, Nat.min_eq_left hinv.bytesTaken_le]

section Cycle

variable (hinv : R40 s) (hf : FsCase w s f m pub) (hl : LvCase s pub (swRd w) l) (herr : swErr w = false)

include hinv hf hl herr

/-- A quiet cycle without a byte is none of the receiver's. -/
theorem receiver_noByte (hv : swValid w = false) :
    receiverOf { s with fs := f, slots := m, lv := l } = receiverOf s ∧
    eventOf { s with fs := f, slots := m, lv := l } = none := by
  have hlatest := latestFrame_after hinv.cell hf hl
  have htaken := taken_after hf hl
  have hgen := hl.gen_eq
  rw [herr, hv] at htaken
  obtain ⟨rfl, rfl, rfl⟩ := hf.idle_eq herr hv hinv.legalState
  simp only [receiverOf, phaseOf, hlatest, htaken, hgen, eventOf]
  exact ⟨rfl, rfl⟩

theorem receiver_seekByte (hv : swValid w = true) (hs : s.fs.state = .seek) :
    receiverOf { s with fs := f, slots := m, lv := l } = (receiverOf s).next s.cfg (swData w) ∧
    eventOf { s with fs := f, slots := m, lv := l } = (receiverOf s).report s.cfg (swData w) := by
  obtain ⟨rfl, hev, hmatch⟩ := hf.seek_eq herr hv hs
  have htaken := taken_after hf hl
  rw [herr, hv, hs] at htaken
  simp only [receiverOf, Receiver.next, Receiver.report, eventOf, latestFrame_after hinv.cell hf hl,
    hl.gen_eq, hev, hs, phaseOf, htaken, Bool.false_eq_true, if_false, and_true]
  cases hk : seekNext s.cfg.magic s.fs.midx (swData w) with
  | some k => rw [hk] at hmatch; simp [hmatch, seekPhase]
  | none => rw [hk] at hmatch; simp [hmatch, seekPhase]

/-- In PAYLOAD fewer than PLEN bytes are taken, so the receiver takes this one too. -/
theorem receiver_payloadByte (hv : swValid w = true) (hs : s.fs.state = .payload) :
    receiverOf { s with fs := f, slots := m, lv := l } = (receiverOf s).next s.cfg (swData w) ∧
    eventOf { s with fs := f, slots := m, lv := l } = (receiverOf s).report s.cfg (swData w) := by
  obtain ⟨rfl, hev, -, hst, -⟩ := hf.payload_eq herr hv hs
  have hlt : (taken s).length < s.cfg.plen := by
    rw [hinv.length_taken, bytesTaken, hs]; exact hinv.pcntBelowPlen
  have htaken := taken_after hf hl
  rw [herr, hv, hs] at htaken
  have hphase : phaseOf { s with fs := f, slots := m, lv := l } = .taking (taken s ++ [swData w]) := by
    by_cases hk : s.fs.pcnt + 1 = s.cfg.plen <;> simp [phaseOf, htaken, hst, hk]
  simp only [receiverOf, Receiver.next, Receiver.report, eventOf, latestFrame_after hinv.cell hf hl,
    hl.gen_eq, hev, hphase]
  simp [phaseOf, hs, hlt]

/-- In CHECKSUM all PLEN bytes are taken and their sum is the running sum, so both decide alike. -/
theorem receiver_checksumByte (hv : swValid w = true) (hs : s.fs.state = .checksum) :
    receiverOf { s with fs := f, slots := m, lv := l } = (receiverOf s).next s.cfg (swData w) ∧
    eventOf { s with fs := f, slots := m, lv := l } = (receiverOf s).report s.cfg (swData w) := by
  obtain ⟨hval, hkind, hevgen, hpub, hst, hmidx⟩ := hf.reports (.inr ⟨hv, hs⟩)
  have hsum := hinv.sum_eq
  have hlt : ¬ (taken s).length < s.cfg.plen := by
    rw [hinv.length_taken, bytesTaken, hs]; exact lt_irrefl _
  rw [taken_of_checksum hs] at hsum hlt
  rw [dueKind, herr] at hpub
  have hphase : phaseOf { s with fs := f, slots := m, lv := l } = .seeking 0 := by simp [phaseOf, hst, hmidx]
  simp only [receiverOf, Receiver.next, Receiver.report, eventOf, latestFrame_after hinv.cell hf hl,
    hl.gen_eq, hval, hkind, hevgen, hphase, dueKind, herr]
  simp only [phaseOf, hs, taken_of_checksum hs, if_neg hlt, ← hsum]
  by_cases hb : swData w = s.fs.sum
  · have hpub1 : pub = true := hpub.2 (by simp [hb])
    simp [hpub1, hb, nextGen]
  · have hpub0 : pub = false := Bool.eq_false_iff.2 (mt hpub.1 (by simp [hb]))
    simp [hpub0, hb]

end Cycle

theorem receiver_idle (hinv : R40 s) (hrst : swRst w = false) (herr : swErr w = false)
    (hv : swValid w = false) (h : edge w s = .next t) : receiverOf t = receiverOf s ∧ eventOf t = none := by
  obtain ⟨f, m, pub, l, hf, hl, rfl⟩ := edge_next_running hrst h
  exact receiver_noByte hinv hf hl herr hv

/-- A quiet cycle with a byte is the receiver's step on that byte. -/
theorem receiver_byte (hinv : R40 s) (hrst : swRst w = false) (herr : swErr w = false)
    (hv : swValid w = true) (h : edge w s = .next t) :
    receiverOf t = (receiverOf s).next s.cfg (swData w) ∧
    eventOf t = (receiverOf s).report s.cfg (swData w) := by
  obtain ⟨f, m, pub, l, hf, hl, rfl⟩ := edge_next_running hrst h
  cases hs : s.fs.state with
  | seek => exact receiver_seekByte hinv hf hl herr hv hs
  | payload => exact receiver_payloadByte hinv hf hl herr hv hs
  | checksum => exact receiver_checksumByte hinv hf hl herr hv hs
  | illegal => exact absurd hs hinv.legalState

theorem quiet_iff : quiet w = true ↔ swRst w = false ∧ swErr w = false := by simp [quiet]

theorem bytesOf_append (us vs : List StimWord) : bytesOf (us ++ vs) = bytesOf us ++ bytesOf vs :=
  List.filterMap_append

theorem bytesOf_cons_byte (hv : swValid w = true) (ws : List StimWord) :
    bytesOf (w :: ws) = swData w :: bytesOf ws := by simp [bytesOf, hv]

theorem bytesOf_cons_noByte (hv : swValid w = false) (ws : List StimWord) :
    bytesOf (w :: ws) = bytesOf ws := by simp [bytesOf, hv]

/-- A quiet run is the receiver's run over the bytes it presents, whatever idle cycles and reads stand
between them. -/
theorem receiver_feed (hinv : R40 s) (hq : ∀ w ∈ ws, quiet w = true) (h : feed ws s = .next t) :
    receiverOf t = (receiverOf s).after s.cfg (bytesOf ws) ∧
    eventLog ws s = (receiverOf s).log s.cfg (bytesOf ws) := by
  induction ws generalizing s with
  | nil => cases h; exact ⟨rfl, rfl⟩
  | cons w ws ih =>
    obtain ⟨x, hx, hws⟩ := feed_cons_next h
    obtain ⟨hw, hq⟩ := List.forall_mem_cons.1 hq
    obtain ⟨hrst, herr⟩ := quiet_iff.1 hw
    obtain ⟨hafter, hlog⟩ := ih (hinv.edge hx) hq hws
    rw [eventLog_cons hx, hafter, hlog, edge_cfg hx]
    cases hv : swValid w with
    | true =>
      obtain ⟨hr, he⟩ := receiver_byte hinv hrst herr hv hx
      rw [hr, he, bytesOf_cons_byte hv]
      exact ⟨rfl, rfl⟩
    | false =>
      obtain ⟨hr, he⟩ := receiver_idle hinv hrst herr hv hx
      rw [hr, he, bytesOf_cons_noByte hv]
      exact ⟨rfl, rfl⟩

/-! Whole messages. -/

/-- What a message leaves: its one event, a clean start, and the latest frame and the generation. -/
structure MessageResult (s : State) (p : List Byte) (k : Byte) (log : List (EvKind × Nat)) (t : State) :
    Prop where
  inv : R40 t
  clean : startsClean t
  log : log = [if k = sum8 p then (.frameOk, nextGen s) else (.checksumMismatch, s.lv.gen)]
  latest : latestFrame t = if k = sum8 p then some p else latestFrame s
  gen : t.lv.gen = if k = sum8 p then nextGen s else s.lv.gen

section Message

variable {x p : List Byte} {k : Byte}

/-- A message after a clean start, with what else completes the marker in place of the marker itself, and
with idle cycles and reads anywhere. -/
theorem feed_message (hinv : R40 s) (hclean : startsClean s) (hx : OpensMessage s.cfg.magic x)
    (hp : p.length = s.cfg.plen) (hq : ∀ w ∈ ws, quiet w = true) (hbytes : bytesOf ws = x ++ p ++ [k]) :
    ∃ t, feed ws s = .next t ∧ MessageResult s p k (eventLog ws s) t := by
  obtain ⟨t, ht⟩ := hinv.feed_exists ws
  have hinvt := hinv.feed ht
  obtain ⟨hafter, hlog⟩ := receiver_feed hinv hq ht
  have hr : (receiverOf s).phase = .seeking 0 := (startsClean_iff hinv.legalState).1 hclean
  obtain ⟨hmsg, hmlog⟩ := Receiver.take_message (k := k) hr hx hp
  rw [hbytes, hmsg] at hafter
  rw [hbytes, hmlog] at hlog
  refine ⟨t, ht, hinvt, (startsClean_iff hinvt.legalState).2 ?_, hlog, ?_, ?_⟩
  · have := congrArg Receiver.phase hafter
    split at this
    · exact this
    · exact this.trans hr
  · have := congrArg Receiver.latest hafter
    split at this <;> simp_all [receiverOf]
  · have := congrArg Receiver.gen hafter
    split at this <;> simp_all [receiverOf, nextGen]

/-- Before the last byte of a message there is no event. -/
theorem no_event_before_last (hinv : R40 s) (hclean : startsClean s) (hx : OpensMessage s.cfg.magic x)
    (hp : p.length = s.cfg.plen) (hq : ∀ w ∈ ws, quiet w = true) (hbytes : bytesOf ws = x ++ p ++ [k])
    (hws : ws = us ++ vs) (hvs : bytesOf vs ≠ []) : eventLog us s = [] := by
  subst hws
  obtain ⟨t, ht⟩ := hinv.feed_exists us
  have hr : (receiverOf s).phase = .seeking 0 := (startsClean_iff hinv.legalState).1 hclean
  have hbody : x ++ p = bytesOf us ++ (bytesOf vs).dropLast := by
    rw [← List.dropLast_append_of_ne_nil hvs, ← bytesOf_append, hbytes, List.dropLast_concat]
  have hlog := (Receiver.take_body hr hx hp).2
  rw [hbody, Receiver.log_append, List.append_eq_nil_iff] at hlog
  rw [(receiver_feed hinv (fun w hw => hq w (List.mem_append_left vs hw)) ht).2]
  exact hlog.1

end Message

theorem messageWith_eq (c : Config) (p : List Byte) (k : Byte) :
    messageWith c p k = c.magic.bytes ++ p ++ [k] := rfl

/-- Settles O43: the marker opens the message, and the checksum is right by the message's layout. -/
theorem messageRoundTrip : Obligations.MessageRoundTrip := by
  intro s p ws hinv hclean hp hq hbytes
  have hx := opensMessage_magic s.cfg.magic
  obtain ⟨t, ht, hres⟩ := feed_message hinv hclean hx hp hq hbytes
  exact ⟨⟨t, ht, hres.clean, hres.latest.trans (if_pos rfl)⟩, hres.log.trans (by rw [if_pos rfl]; rfl),
    fun us vs => no_event_before_last hinv hclean hx hp hq hbytes⟩

end Sys2Proof.Machine
end

section
/-! The checksum (R131 to R133) and the layout of a message (R90): `sum8` is the sum in the ring of bytes,
so a changed byte changes it and a rearrangement does not. -/

namespace Sys2Proof.Machine

variable {s : State} {p q : List Byte} {ws : List StimWord}

theorem sum8_eq_sum (p : List Byte) : sum8 p = p.sum := List.sum_eq_foldl.symm

/-- Settles O10: both sides grow by the same byte, modulo 256. -/
theorem checksumIsSumModulo256 : Obligations.ChecksumIsSumModulo256 := by
  intro p
  induction p using List.reverseRecOn with
  | nil => rfl
  | append_singleton p b ih =>
    rw [sum8_append_singleton, BitVec.toNat_add, ih]
    simp

/-- Settles O9: the marker has four bytes, so the payload begins at offset 4 and the checksum follows it. -/
theorem messageLayoutOnTheWire : Obligations.MessageLayoutOnTheWire := by
  intro c p hp
  refine ⟨?_, rfl, fun i ch hi => ?_, ?_⟩
  · simp [message, messageWith, Magic.bytes, hp]
  · have hoff : ch.offset < 3 := by cases ch <;> decide
    have hplen : c.plen = 3 * c.nLeds := rfl
    have hk : 3 * i + ch.offset < p.length := by omega
    refine ⟨p[3 * i + ch.offset], List.getElem?_eq_getElem hk, ?_⟩
    rw [message, messageWith, List.append_assoc, Nat.add_comm 4,
      List.getElem?_append_right (by simp [Magic.bytes])]
    simp [Magic.bytes, hk, List.getElem?_append_left]
  · rw [message, messageWith, List.getElem?_append_right (by simp [Magic.bytes, hp])]
    simp [Magic.bytes, hp]

/-- Replacing a byte moves the sum by the difference. -/
theorem sum8_set {i : Nat} {x : Byte} (hx : p[i]? = some x) (y : Byte) : sum8 (p.set i y) = sum8 p + (y - x) := by
  obtain ⟨hi, rfl⟩ := List.getElem?_eq_some_iff.1 hx
  rw [sum8_eq_sum, sum8_eq_sum, List.sum_set', dif_pos hi, neg_add_eq_sub]

theorem sum8_perm (h : q.Perm p) : sum8 q = sum8 p := by rw [sum8_eq_sum, sum8_eq_sum, h.sum_eq]

/-- What one byte gains and another loses leaves the sum. -/
theorem sum8_shift {i j : Nat} {x y : Byte} (hij : i ≠ j) (hx : p[i]? = some x) (hy : p[j]? = some y)
    (d : Byte) : sum8 ((p.set i (x + d)).set j (y - d)) = sum8 p := by
  have hy' : (p.set i (x + d))[j]? = some y := by rw [List.getElem?_set_ne hij, hy]
  rw [sum8_set hy', sum8_set hx]
  ring

/-- Settles O45: a message is decided by its sum alone, and `sum8` has the two symmetries. -/
theorem sameSumPassesTheChecksum : Obligations.SameSumPassesTheChecksum := by
  refine ⟨fun s p q ws hinv hclean hq hsum hquiet hbytes => ?_, fun p q => sum8_perm,
    fun p i j x y d hij hx hy => sum8_shift hij hx hy d⟩
  obtain ⟨t, ht, hres⟩ := feed_message hinv hclean (opensMessage_magic s.cfg.magic) hq hquiet hbytes
  exact ⟨hres.log.trans (by rw [if_pos hsum.symm]; rfl), t, ht, hres.latest.trans (if_pos hsum.symm)⟩

/-! One flipped bit (R132). -/

theorem xor_twoPow_ne (x : Byte) {i : Nat} (hi : i < 8) : x ^^^ BitVec.twoPow 8 i ≠ x := by
  intro h
  have hbit := congrArg (BitVec.getLsbD · i) h
  simp [hi] at hbit

/-- A message with a wrong checksum byte changes nothing of the cell but by reads. -/
theorem feed_wrong_message {k : Byte} (hinv : R40 s) (hclean : startsClean s) (hp : p.length = s.cfg.plen)
    (hk : k ≠ sum8 p) (hq : ∀ w ∈ ws, quiet w = true) (hbytes : bytesOf ws = messageWith s.cfg p k) :
    eventLog ws s = [(.checksumMismatch, s.lv.gen)] ∧
    ∃ t, feed ws s = .next t ∧ startsClean t ∧ t.lv.gen = s.lv.gen ∧
      t.lv.hasValue = s.lv.hasValue ∧ latestFrame t = latestFrame s := by
  obtain ⟨t, ht, hres⟩ := feed_message hinv hclean (opensMessage_magic s.cfg.magic) hp hq hbytes
  have hlatest : latestFrame t = latestFrame s := hres.latest.trans (if_neg hk)
  have hhas : t.lv.hasValue = s.lv.hasValue := by
    have hsome := congrArg Option.isSome hlatest
    rw [latestFrame_eq, latestFrame_eq] at hsome
    cases ht' : t.lv.hasValue <;> cases hs' : s.lv.hasValue <;> simp [ht', hs'] at hsome ⊢
  exact ⟨hres.log.trans (by rw [if_neg hk]), t, ht, hres.clean, hres.gen.trans (if_neg hk), hhas, hlatest⟩

/-- Settles O44: a flipped payload bit moves the sum away from the checksum byte, a flipped checksum bit
the byte away from the sum. -/
theorem oneFlippedBitIsCaught : Obligations.OneFlippedBitIsCaught := by
  rintro s p q k ws i hi hinv hclean hp hflip hq hbytes
  obtain ⟨j, x, hx, rfl, rfl⟩ | ⟨rfl, rfl⟩ := hflip
  · refine feed_wrong_message hinv hclean (by rw [List.length_set, hp]) (fun h => ?_) hq hbytes
    rw [sum8_set hx, left_eq_add, sub_eq_zero] at h
    exact xor_twoPow_ne x hi h
  · exact feed_wrong_message hinv hclean hp (xor_twoPow_ne _ hi) hq hbytes

end Sys2Proof.Machine
end

section
/-! Seeking (R138 to R141): where the marker cannot overlap a failed partial match, the partial match is
always the longest one, so the marker's first occurrence opens a message. -/

namespace Sys2Proof.Machine

variable {w : StimWord} {s t : State} {m : Magic} {k : MarkerIdx} {b : Byte} {x : List Byte}
  {ws : List StimWord}

/-- `k` marker bytes, and no other nonzero number short of all four, end `x`. -/
def LongestMatch (m : Magic) (k : MarkerIdx) (x : List Byte) : Prop :=
  ∀ i : MarkerIdx, i ≠ 0 → (m.bytes.take i.toNat <:+ x ↔ i = k)

theorem markerIdx_cases (i : MarkerIdx) : i = 0 ∨ i = 1 ∨ i = 2 ∨ i = 3 := by revert i; decide

theorem take_marker_succ (m : Magic) (i : MarkerIdx) :
    m.bytes.take (i.toNat + 1) = m.bytes.take i.toNat ++ [magicAt m i] := by
  obtain rfl | rfl | rfl | rfl := markerIdx_cases i
  all_goals rfl

/-- One marker byte more ends `x ++ [b]` exactly if the rest ends `x` and `b` is that byte. -/
theorem take_marker_succ_suffix (i : MarkerIdx) :
    m.bytes.take (i.toNat + 1) <:+ x ++ [b] ↔ m.bytes.take i.toNat <:+ x ∧ b = magicAt m i := by
  rw [take_marker_succ, List.suffix_append_inj_of_length_eq (s₁ := [magicAt m i]) (s₂ := [b]) rfl,
    List.singleton_inj, eq_comm (a := magicAt m i)]

theorem longestMatch_nil (m : Magic) : LongestMatch m 0 [] := by
  intro i hi
  obtain rfl | rfl | rfl | rfl := markerIdx_cases i
  all_goals simp_all [Magic.bytes]

theorem marker_suffix_iff (h : LongestMatch m k x) : m.bytes <:+ x ++ [b] ↔ k = 3 ∧ b = magicAt m 3 := by
  rw [show m.bytes = m.bytes.take ((3 : MarkerIdx).toNat + 1) from rfl, take_marker_succ_suffix, h 3 (by decide),
    eq_comm (a := k)]

/-- Outside its start, no marker byte that a partial match can wait for is `MAGIC[0]`, but the last. -/
theorem magicAt_ne_start (hm : PlainMarker m) {i : MarkerIdx} (h0 : i ≠ 0) (h3 : i ≠ 3) :
    magicAt m i ≠ m.m0 := by
  obtain rfl | rfl | rfl | rfl := markerIdx_cases i
  · exact absurd rfl h0
  · exact hm.1
  · exact hm.2
  · exact absurd rfl h3

/-- How far the marker can end `x ++ [b]`, with the longest match of `x` known. -/
theorem LongestMatch.succ_suffix_iff (h : LongestMatch m k x) (j : MarkerIdx) :
    m.bytes.take (j.toNat + 1) <:+ x ++ [b] ↔ (j = 0 ∨ j = k) ∧ b = magicAt m j := by
  rw [take_marker_succ_suffix]
  by_cases hj : j = 0
  · subst hj; simp
  · rw [h j hj, or_iff_right hj]

/-- A byte that does not complete the marker leaves the longest match again: after a match no shorter one
can also end there, and after a mismatch only `MAGIC[0]` can. -/
theorem LongestMatch.next (hm : PlainMarker m) (h : LongestMatch m k x) {k' : MarkerIdx}
    (hk : seekNext m k b = some k') : LongestMatch m k' (x ++ [b]) := by
  intro i hi
  obtain ⟨j, rfl, hj3, hnat⟩ : ∃ j : MarkerIdx, i = j + 1 ∧ j ≠ 3 ∧ i.toNat = j.toNat + 1 := by
    revert i; decide
  rw [hnat, h.succ_suffix_iff]
  unfold seekNext at hk
  split at hk
  · next hb =>
    split at hk
    · cases hk
    · next hk3 =>
      obtain rfl := Option.some_inj.1 hk
      rw [add_left_inj]
      constructor
      · rintro ⟨rfl | hjk, hb0⟩
        · by_contra hne
          exact magicAt_ne_start hm (Ne.symm hne) hk3 (hb.symm.trans hb0)
        · exact hjk
      · rintro rfl
        exact ⟨.inr rfl, hb⟩
  · next hb =>
    obtain rfl := Option.some_inj.1 hk
    have hnotk : ¬ (j = k ∧ b = magicAt m j) := by rintro ⟨rfl, hjb⟩; exact hb hjb
    have hstart : (j = 0 ∨ j = k) ∧ b = magicAt m j ↔ j = 0 ∧ b = m.m0 := by
      constructor
      · rintro ⟨rfl | hjk, hjb⟩
        · exact ⟨rfl, hjb⟩
        · exact absurd ⟨hjk, hjb⟩ hnotk
      · rintro ⟨rfl, hjb⟩
        exact ⟨.inl rfl, hjb⟩
    have hone : ∀ j : MarkerIdx, j + 1 = 1 ↔ j = 0 := by decide
    rw [hstart]
    split
    · next h0 => rw [hone, and_iff_left h0]
    · next h0 => exact iff_of_false (fun hj => h0 hj.2) hi

theorem seekRun_concat {j : MarkerIdx} (h : seekRun m j x = some k) : seekRun m j (x ++ [b]) = seekNext m k b := by
  rw [seekRun, List.foldlM_append, ← seekRun, h]
  simp

/-- As long as the marker has not occurred the receiver seeks, with the longest match. -/
theorem seekRun_of_noMarker (hm : PlainMarker m) (hx : ¬ MarkerIn m x) :
    ∃ k, seekRun m 0 x = some k ∧ LongestMatch m k x := by
  induction x using List.reverseRecOn with
  | nil => exact ⟨0, rfl, longestMatch_nil m⟩
  | append_singleton y b ih =>
    obtain ⟨k, hrun, hlong⟩ := ih fun hy => hx (hy.trans (List.prefix_append y [b]).isInfix)
    have hsnoc := seekRun_concat (b := b) hrun
    cases hnext : seekNext m k b with
    | some k' => exact ⟨k', hsnoc.trans hnext, hlong.next hm hnext⟩
    | none =>
      have hdone : k = 3 ∧ b = magicAt m 3 := by
        unfold seekNext at hnext
        split at hnext
        · next hb =>
          split at hnext
          · next hk => exact ⟨hk, hk ▸ hb⟩
          · cases hnext
        · cases hnext
      exact absurd ((marker_suffix_iff hlong).2 hdone).isInfix hx

/-- The first occurrence of the marker opens a message. -/
theorem opensMessage_of_firstMarkerEnds (hm : PlainMarker m) (hx : FirstMarkerEnds m x) : OpensMessage m x := by
  obtain ⟨hsuf, hno⟩ := hx
  have hne : x ≠ [] := by
    rintro rfl
    simp [Magic.bytes] at hsuf
  obtain ⟨y, b, rfl⟩ := (List.eq_nil_or_concat' x).resolve_left hne
  rw [List.dropLast_concat] at hno
  obtain ⟨k, hrun, hlong⟩ := seekRun_of_noMarker hm hno
  obtain ⟨rfl, rfl⟩ := (marker_suffix_iff hlong).1 hsuf
  exact ⟨y, _, 3, rfl, hrun, by simp [seekNext]⟩

/-! The block while it seeks. No invariant is needed here: nothing is stored. -/

/-- A quiet cycle in SEEK. -/
theorem edge_seek (hs : s.fs.state = .seek) (hq : quiet w = true) : ∃ t, edge w s = .next t ∧
    t.cfg = s.cfg ∧ eventOf t = none ∧
    (swValid w = false → t.fs.state = .seek ∧ t.fs.midx = s.fs.midx) ∧
    (swValid w = true → match seekNext s.cfg.magic s.fs.midx (swData w) with
      | some k => t.fs.state = .seek ∧ t.fs.midx = k
      | none => t.fs.state = .payload ∧ t.fs.pcnt = 0 ∧ t.fs.sum = 0) := by
  obtain ⟨t, ht⟩ := edge_exists w s (by simp [hs])
  obtain ⟨hrst, herr⟩ := quiet_iff.1 hq
  refine ⟨t, ht, edge_cfg ht, ?_⟩
  obtain ⟨f, m, pub, l, hf, -, rfl⟩ := edge_next_running hrst ht
  cases hv : swValid w with
  | true =>
    obtain ⟨-, hev, hmatch⟩ := hf.seek_eq herr hv hs
    exact ⟨by simp [eventOf, hev], nofun, fun _ => hmatch⟩
  | false =>
    obtain ⟨rfl, -, -⟩ := hf.idle_eq herr hv (by simp [hs])
    exact ⟨rfl, fun _ => ⟨hs, rfl⟩, nofun⟩

/-- A quiet run that does not complete the marker stays in SEEK and reports nothing. -/
theorem feed_seek (hs : s.fs.state = .seek) (hq : ∀ w ∈ ws, quiet w = true)
    (hrun : seekRun s.cfg.magic s.fs.midx (bytesOf ws) = some k) :
    ∃ t, feed ws s = .next t ∧ t.fs.state = .seek ∧ t.fs.midx = k ∧ eventLog ws s = [] := by
  induction ws generalizing s with
  | nil => exact ⟨s, rfl, hs, Option.some_inj.1 hrun, rfl⟩
  | cons w ws ih =>
    obtain ⟨hw, hq⟩ := List.forall_mem_cons.1 hq
    obtain ⟨x, hx, hc, hev, hidle, hbyte⟩ := edge_seek hs hw
    have hgo : x.fs.state = .seek ∧ seekRun x.cfg.magic x.fs.midx (bytesOf ws) = some k := by
      cases hv : swValid w with
      | false =>
        obtain ⟨hst, hmidx⟩ := hidle hv
        rw [bytesOf_cons_noByte hv] at hrun
        exact ⟨hst, by rw [hc, hmidx]; exact hrun⟩
      | true =>
        rw [bytesOf_cons_byte hv] at hrun
        obtain ⟨j, hj, hrun⟩ := seekRun_cons hrun
        obtain ⟨hst, hmidx⟩ : x.fs.state = .seek ∧ x.fs.midx = j := by simpa [hj] using hbyte hv
        exact ⟨hst, by rw [hc, hmidx]; exact hrun⟩
    obtain ⟨t, ht, hst, hmidx, hlog⟩ := ih hgo.1 hq hgo.2
    exact ⟨t, (feed_cons hx ws).trans ht, hst, hmidx, by rw [eventLog_cons hx, hev, hlog]; rfl⟩

/-- Settles O46: without the marker the longest match is short of it; at the end of its first occurrence
the last byte completes a match of three. -/
theorem seekStopsAtFirstMarker : Obligations.SeekStopsAtFirstMarker := by
  intro s ws hclean hm hq
  obtain ⟨hs, hmidx⟩ := hclean
  constructor
  · intro hno
    obtain ⟨k, hrun, -⟩ := seekRun_of_noMarker hm hno
    obtain ⟨t, ht, hst, -, hlog⟩ := feed_seek hs hq (hmidx ▸ hrun)
    exact ⟨hlog, t, ht, hst⟩
  · intro w hw hv hfirst
    obtain ⟨y, b, k, hy, hrun, hdone⟩ := opensMessage_of_firstMarkerEnds hm hfirst
    rw [bytesOf_append, bytesOf_cons_byte hv] at hy
    obtain ⟨rfl, hb⟩ := List.append_inj' hy rfl
    obtain rfl : swData w = b := (List.cons.inj hb).1
    obtain ⟨t, ht, hst, hmidx', -⟩ := feed_seek hs hq (hmidx ▸ hrun)
    obtain ⟨u, hu, -, -, -, hbyte⟩ := edge_seek hst hw
    refine ⟨⟨t, ht, hst⟩, u, by rw [feed_append ht, feed_cons hu]; rfl, ?_⟩
    simpa [feed_cfg ht, hmidx', hdone] using hbyte hv

/-- Settles O47: the garbage with the marker after it opens the message as the marker alone does. -/
theorem resyncAfterGarbage : Obligations.ResyncAfterGarbage := by
  intro s g p k ws hinv hclean hm hp hfirst hq hbytes
  have hx := opensMessage_of_firstMarkerEnds hm hfirst
  have hbytes' : bytesOf ws = g ++ s.cfg.magic.bytes ++ p ++ [k] := by
    rw [hbytes, messageWith_eq]; simp only [List.append_assoc]
  obtain ⟨t, ht, hres⟩ := feed_message hinv hclean hx hp hq hbytes'
  refine ⟨fun us vs => no_event_before_last hinv hclean hx hp hq hbytes', t, ht, hres.clean, ?_⟩
  have hlog := hres.log
  have hlatest := hres.latest
  split at hlatest
  · next hk => rw [if_pos hk] at hlog ⊢; exact ⟨hlog, hlatest⟩
  · next hk => rw [if_neg hk] at hlog ⊢; exact ⟨hlog, hlatest⟩

/-- Settles O49: the error's edge takes FS.TERR, which starts clean and keeps the cell; what follows is
then a message after a clean start. -/
theorem transportErrorDropsTheMessage : Obligations.TransportErrorDropsTheMessage := by
  intro s w hinv _ hrst herr
  obtain ⟨l, hl, hedge⟩ := edge_error s hrst herr
  have hgen : l.gen = s.lv.gen := hl.kept_of_noPublish.1
  have hlatest := latestFrame_edge hinv hrst hedge
  refine ⟨⟨_, hedge, ⟨rfl, rfl⟩, rfl, rfl, hgen, hlatest⟩, fun g p ws hm hp hfirst hq hbytes => ?_⟩
  have hx := opensMessage_of_firstMarkerEnds hm hfirst
  have hbytes' : bytesOf ws = g ++ s.cfg.magic.bytes ++ p ++ [sum8 p] := by
    rw [hbytes, message, messageWith_eq]; simp only [List.append_assoc]
  obtain ⟨t, ht, hres⟩ := feed_message (hinv.edge hedge) ⟨rfl, rfl⟩ hx hp hq hbytes'
  refine ⟨?_, t, (feed_cons hedge ws).trans ht, hres.latest.trans (if_pos rfl)⟩
  rw [eventLog_cons hedge, hres.log, if_pos rfl]
  change [(EvKind.transportError, s.lv.gen), (.frameOk, (l.gen + 1) % 2 ^ s.cfg.genW)] = _
  rw [hgen]

/-- One `B` line in SEEK that does not complete the marker, as the run sees it. -/
theorem statesAfter_seekByte {j : MarkerIdx} (hm : s.cfg.magic = m) (hs : s.fs.state = .seek)
    (hj : s.fs.midx = j) (hk : seekNext m j b = some k) :
    ∃ t, t.cfg.magic = m ∧ t.fs.state = .seek ∧ t.fs.midx = k ∧
      ∀ bs, statesAfter (byteWords (b :: bs)) s = t :: statesAfter (byteWords bs) t := by
  subst hm hj
  obtain ⟨hq, -, hv, hd⟩ := byteWord_fields b
  obtain ⟨t, ht, hc, -, -, hbyte⟩ := edge_seek hs hq
  obtain ⟨hst, hmidx⟩ : t.fs.state = .seek ∧ t.fs.midx = k := by simpa [hd, hk] using hbyte hv
  exact ⟨t, by rw [hc], hst, hmidx, fun bs => statesAfter_cons ht _⟩

/-- Settles O48: each byte's partial match is computed from the one before it. -/
theorem overlappingMarkerIsMissed : Obligations.OverlappingMarkerIsMissed := by
  intro s hmagic hclean ws
  obtain ⟨hs, hmidx⟩ := hclean
  obtain ⟨t₁, hc₁, hs₁, hm₁, h₁⟩ := statesAfter_seekByte (b := 0x41) (k := 1) hmagic hs hmidx (by decide)
  obtain ⟨t₂, hc₂, hs₂, hm₂, h₂⟩ := statesAfter_seekByte (b := 0x41) (k := 2) hc₁ hs₁ hm₁ (by decide)
  obtain ⟨t₃, hc₃, hs₃, hm₃, h₃⟩ := statesAfter_seekByte (b := 0x41) (k := 1) hc₂ hs₂ hm₂ (by decide)
  obtain ⟨t₄, hc₄, hs₄, hm₄, h₄⟩ := statesAfter_seekByte (b := 0x42) (k := 0) hc₃ hs₃ hm₃ (by decide)
  obtain ⟨t₅, -, hs₅, hm₅, h₅⟩ := statesAfter_seekByte (b := 0x43) (k := 0) hc₄ hs₄ hm₄ (by decide)
  constructor
  · simp only [ws, h₁, h₂, h₃, h₄, h₅, List.map_cons, hs₁, hs₂, hs₃, hs₄, hs₅, hm₁, hm₂, hm₃, hm₄, hm₅]
    rfl
  · rw [hmagic, bytesOf_byteWords]
    exact ⟨[0x41], [], rfl⟩

end Sys2Proof.Machine
end

section
/-! A burst of messages, then reads (R73, R174). -/

namespace Sys2Proof.Machine

variable {w : StimWord} {s t u : State} {p : List Byte} {ws : List StimWord}

/-- Whole messages one after another: the receiver starts clean after them. -/
theorem Receiver.take_burst {c : Config} {r : Receiver} {ps : List (List Byte)} (hr : r.phase = .seeking 0)
    (hps : ∀ q ∈ ps, q.length = c.plen) : (r.after c (ps.flatMap (message c))).phase = .seeking 0 := by
  induction ps generalizing r with
  | nil => exact hr
  | cons q ps ih =>
    obtain ⟨hq, hps⟩ := List.forall_mem_cons.1 hps
    rw [List.flatMap_cons, Receiver.after_append]
    refine ih ?_ hps
    rw [message, messageWith_eq, (Receiver.take_message hr (opensMessage_magic c.magic) hq).1, if_pos rfl]

/-- With no read a frame once published stays fresh: over such a run the cell ends fresh if it began so
or a FRAME_OK was reported. -/
theorem fresh_feed_noRead (hq : ∀ w ∈ ws, quiet w = true ∧ swRd w = false) (h : feed ws s = .next t)
    (hs : s.lv.fresh = true ∨ ∃ g, (.frameOk, g) ∈ eventLog ws s) : t.lv.fresh = true := by
  induction ws generalizing s with
  | nil =>
    cases h
    obtain hs | ⟨g, hg⟩ := hs
    · exact hs
    · cases hg
  | cons w ws ih =>
    obtain ⟨x, hx, hws⟩ := feed_cons_next h
    obtain ⟨⟨hw, hrd⟩, hq⟩ := List.forall_mem_cons.1 hq
    have hrst := (quiet_iff.1 hw).1
    have hfresh : x.lv.fresh = (publishedOn x || s.lv.fresh) := by
      rw [(cellStep_edge hrst hx).fresh, rdHit_edge hrst hx, hrd]; simp
    refine ih hq hws ?_
    rw [hfresh, Bool.or_eq_true]
    obtain hs | ⟨g, hg⟩ := hs
    · exact .inl (.inr hs)
    · rw [eventLog_cons hx, List.mem_append] at hg
      obtain hg | hg := hg
      · refine .inl (.inl ?_)
        unfold eventOf at hg
        split at hg <;> simp_all [publishedOn]
      · exact .inr ⟨g, hg⟩

theorem readWord_fields : quiet (lineWord .read) = true ∧ swValid (lineWord .read) = false ∧
    swRd (lineWord .read) = true := by decide

/-- A read without a byte answers by `fresh`, shows the latest frame, and leaves it the latest. -/
theorem edge_read (hinv : R40 s) (hp : latestFrame s = some p) : ∃ t, edge (lineWord .read) s = .next t ∧
    R40 t ∧ latestFrame t = some p ∧ rdFrame t = p ∧ t.lv.rdDone = true ∧ t.lv.rdHit = s.lv.fresh ∧
    t.lv.fresh = false := by
  obtain ⟨hq, hv, hrd⟩ := readWord_fields
  obtain ⟨hrst, herr⟩ := quiet_iff.1 hq
  obtain ⟨t, ht⟩ := hinv.edge_exists (lineWord .read)
  obtain ⟨hrec, hev⟩ := receiver_idle hinv hrst herr hv ht
  have hpub : publishedOn t = false := by
    unfold eventOf at hev
    split at hev <;> simp_all [publishedOn]
  have hhit : t.lv.rdHit = s.lv.fresh := by rw [rdHit_edge hrst ht, hrd, Bool.true_and]
  refine ⟨t, ht, hinv.edge ht, (congrArg Receiver.latest hrec).trans hp, ?_, ?_, hhit, ?_⟩
  · rw [rdFrame_edge_read hinv hrst hrd ht, hp]; rfl
  · rw [rdDone_edge hrst ht, hrd]
  · rw [(cellStep_edge hrst ht).fresh, hpub, hhit]; simp

theorem answerLog_cons (h : edge w s = .next t) (ws : List StimWord) (hdone : t.lv.rdDone = true) :
    answerLog (w :: ws) s = t.lv.rdHit :: answerLog ws t := by
  rw [answerLog, statesAfter_cons h, List.filterMap_cons_some (by rw [if_pos hdone])]
  rfl

/-- Reads in a row: the first is answered by `fresh`, the others miss, and all show the latest frame. -/
theorem reads_in_row (n : Nat) (hinv : R40 s) (hp : latestFrame s = some p) :
    answerLog (List.replicate (n + 1) (lineWord .read)) s = s.lv.fresh :: List.replicate n false ∧
    ∀ u ∈ statesAfter (List.replicate (n + 1) (lineWord .read)) s, rdFrame u = p := by
  induction n generalizing s with
  | zero =>
    obtain ⟨t, ht, -, -, hframe, hdone, hhit, -⟩ := edge_read hinv hp
    rw [List.replicate_one, answerLog_cons ht _ hdone, hhit, statesAfter_cons ht]
    exact ⟨rfl, by simpa [statesAfter] using hframe⟩
  | succ n ih =>
    obtain ⟨t, ht, hinvt, hpt, hframe, hdone, hhit, hfresh⟩ := edge_read hinv hp
    obtain ⟨hans, hframes⟩ := ih hinvt hpt
    rw [List.replicate_succ, answerLog_cons ht _ hdone, hhit, statesAfter_cons ht, hans, hfresh]
    exact ⟨rfl, List.forall_mem_cons.2 ⟨hframe, hframes⟩⟩

/-- Settles O53: the last message leaves its payload latest and fresh, and the reads follow. -/
theorem burstCollapsesToNewest : Obligations.BurstCollapsesToNewest := by
  intro s ps p ws n hinv hclean hlen hq hbytes
  obtain ⟨t, ht⟩ := hinv.feed_exists ws
  obtain ⟨hafter, hlog⟩ := receiver_feed hinv (fun w hw => (hq w hw).1) ht
  have hburst := Receiver.take_burst (c := s.cfg) (r := receiverOf s) (ps := ps)
    ((startsClean_iff hinv.legalState).1 hclean) fun q hqs => hlen q (by simp [hqs])
  obtain ⟨hmsg, hmlog⟩ := Receiver.take_message (k := sum8 p) hburst (opensMessage_magic s.cfg.magic)
    (hlen p (by simp))
  have hsplit : (ps ++ [p]).flatMap (message s.cfg) = ps.flatMap (message s.cfg) ++ message s.cfg p := by simp
  rw [hbytes, hsplit, message, messageWith_eq, Receiver.after_append, hmsg, if_pos rfl] at hafter
  rw [hbytes, hsplit, message, messageWith_eq, Receiver.log_append, hmlog, if_pos rfl] at hlog
  have hfresh : t.lv.fresh = true := fresh_feed_noRead hq ht (.inr ⟨_, by
    rw [hlog]; exact List.mem_append_right _ (List.mem_singleton_self _)⟩)
  have hreads := reads_in_row n (hinv.feed ht) (congrArg Receiver.latest hafter)
  exact ⟨t, ht, hfresh ▸ hreads.1, hreads.2⟩

end Sys2Proof.Machine
end

section
/-! The stimulus word, the decode keys and the images (R92 to R95), and the assembler (R101, R102). -/

namespace Sys2Proof.Machine

variable {w v : StimWord} {s t : State}

/-! The stimulus word. -/

theorem getLsbD_flag (c : Bool) (x : StimWord) (i : Nat) :
    (if c then x else 0).getLsbD i = (c && x.getLsbD i) := by
  cases c <;> simp

/-- Each bit of a built stimulus word (R92): the four flags are single bits above the byte. -/
theorem getLsbD_mkStim (rst err valid rd : Bool) (d : Byte) {i : Nat} (hi : i < 12) :
    (mkStim rst err valid rd d).getLsbD i =
      if i < 8 then d.getLsbD i else if i = 8 then rd else if i = 9 then valid else
        if i = 10 then err else rst := by
  have hbits : (0x800 : StimWord) = BitVec.twoPow 12 11 ∧ (0x400 : StimWord) = BitVec.twoPow 12 10 ∧
      (0x200 : StimWord) = BitVec.twoPow 12 9 ∧ (0x100 : StimWord) = BitVec.twoPow 12 8 := by decide
  obtain ⟨h11, h10, h9, h8⟩ := hbits
  simp only [mkStim, h11, h10, h9, h8, BitVec.getLsbD_or, getLsbD_flag, BitVec.getLsbD_setWidth,
    BitVec.getLsbD_twoPow, hi, decide_true, Bool.true_and]
  split_ifs with hlt he he he
  · have : 8 ≠ i ∧ 9 ≠ i ∧ 10 ≠ i ∧ 11 ≠ i := by omega
    simp [this]
  · simp [he]
  · simp [he]
  · simp [he]
  · obtain rfl : i = 11 := by omega
    simp

theorem getLsbD_swData (w : StimWord) {i : Nat} (hi : i < 8) : (swData w).getLsbD i = w.getLsbD i := by
  simp [swData, hi]

/-- The fields of a word are the whole word. -/
theorem mkStim_fields (w : StimWord) : mkStim (swRst w) (swErr w) (swValid w) (swRd w) (swData w) = w := by
  refine BitVec.eq_of_getLsbD_eq fun i hi => ?_
  rw [getLsbD_mkStim _ _ _ _ _ hi]
  split_ifs with h8 h h h
  · exact getLsbD_swData w h8
  · rw [h]; rfl
  · rw [h]; rfl
  · rw [h]; rfl
  · obtain rfl : i = 11 := by omega
    rfl

/-- Settles O3: both ways bit by bit. -/
theorem stimulusFieldsAreTheWord : Obligations.StimulusFieldsAreTheWord := by
  refine ⟨mkStim_fields, fun rst err valid rd d => ⟨?_, ?_, ?_, ?_, ?_⟩⟩
  · exact getLsbD_mkStim _ _ _ _ _ (by decide)
  · exact getLsbD_mkStim _ _ _ _ _ (by decide)
  · exact getLsbD_mkStim _ _ _ _ _ (by decide)
  · exact getLsbD_mkStim _ _ _ _ _ (by decide)
  · refine BitVec.eq_of_getLsbD_eq fun i hi => ?_
    rw [getLsbD_swData _ hi, getLsbD_mkStim _ _ _ _ _ (by omega), if_pos hi]

/-- Settles O1: eleven fixed images, each evaluated. -/
theorem specWordsDecode : Obligations.SpecWordsDecode := by
  unfold Obligations.SpecWordsDecode
  decide

/-! The operation maps. -/

/-- The operation of a key does not depend on the data byte but in its operand. -/
theorem decodeFs_row (k : FsKey) (b : Byte) : (decodeFs k b).mnemonic = (decodeFs k 0).mnemonic ∧
    (decodeFs k b).isFs = true := by
  unfold decodeFs
  split_ifs <;> exact ⟨rfl, rfl⟩

/-- Settles O4: the rows by all 32 and all 8 keys. -/
theorem operationMapsPartitionTheKeys : Obligations.OperationMapsPartitionTheKeys := by
  have hfs : ∀ k : FsKey, ∃ r ∈ opRows, rowsMatching true (k.setWidth 8) = [r] ∧
      (decodeFs k 0).mnemonic = r.mnemonic := by decide
  have hlv : ∀ k : LvKey, ∃ r ∈ opRows, rowsMatching false (k.setWidth 8) = [r] ∧
      (decodeLv k).mnemonic = r.mnemonic ∧ (decodeLv k).isFs = false := by decide
  refine ⟨fun k b => ?_, fun k => ?_⟩
  · obtain ⟨hname, hisFs⟩ := decodeFs_row k b
    obtain ⟨r, -, hr, hk⟩ := hfs k
    exact ⟨r, hr, hname.trans hk, hisFs⟩
  · obtain ⟨r, -, hr⟩ := hlv k
    exact ⟨r, hr⟩

/-- A row is known by its mnemonic: its format and match value are those of the operation's image. -/
theorem opRow_of_mnemonic {i : Instr} : ∀ r ∈ opRows, r.mnemonic = i.mnemonic →
    r.fsk = i.isFs ∧ r.value = i.keyByte := by
  cases i with
  | fsSeekByte _ =>
    exact (by decide : ∀ r ∈ opRows, r.mnemonic = "FS.SEEK_BYTE" → r.fsk = true ∧ r.value = 0b00100)
  | fsPayloadByte _ =>
    exact (by decide : ∀ r ∈ opRows, r.mnemonic = "FS.PAYLOAD_BYTE" → r.fsk = true ∧ r.value = 0b00101)
  | fsChecksumByte _ =>
    exact (by decide : ∀ r ∈ opRows, r.mnemonic = "FS.CHECKSUM_BYTE" → r.fsk = true ∧ r.value = 0b00110)
  | _ => decide

/-- The one row that a key matches, as the decoder's converse needs it. -/
theorem row_of_rowsMatching {fsk : Bool} {k : Byte} {r : OpRow} (h : rowsMatching fsk k = [r]) :
    r ∈ opRows ∧ k &&& r.mask = r.value := by
  have hr : r ∈ rowsMatching fsk k := by rw [h]; exact List.mem_singleton_self r
  rw [rowsMatching, List.mem_filter, Bool.and_eq_true, beq_iff_eq, beq_iff_eq] at hr
  exact ⟨hr.1, hr.2.2⟩

theorem decode_encode (i : Instr) : decode (encode i) = .ok i := by
  cases i with
  | fsSeekByte b => exact congrArg Except.ok (show decodeFs 0b00100 b = _ from rfl)
  | fsPayloadByte b => exact congrArg Except.ok (show decodeFs 0b00101 b = _ from rfl)
  | fsChecksumByte b => exact congrArg Except.ok (show decodeFs 0b00110 b = _ from rfl)
  | _ => rfl

/-- The operand of a byte operation is the data byte decoded with it. -/
theorem decodeFs_operand {k : FsKey} {b c : Byte} (h : decodeFs k c = .fsSeekByte b ∨
    decodeFs k c = .fsPayloadByte b ∨ decodeFs k c = .fsChecksumByte b) : c = b := by
  unfold decodeFs at h
  split_ifs at h <;> simp at h <;> exact h

theorem decodeLv_not_operand (k : LvKey) (b : Byte) : ¬ (decodeLv k = .fsSeekByte b ∨
    decodeLv k = .fsPayloadByte b ∨ decodeLv k = .fsChecksumByte b) := by
  unfold decodeLv
  split_ifs <;> simp

theorem setWidth_setWidth_key {n : Nat} {k : Byte} (h : k.toNat < 2 ^ n) :
    (k.setWidth n).setWidth 8 = k := by
  apply BitVec.eq_of_toNat_eq
  rw [BitVec.toNat_setWidth, BitVec.toNat_setWidth, Nat.mod_eq_of_lt h, Nat.mod_eq_of_lt k.isLt]

/-- Settles O2: the image of an operation is its key with its byte; conversely a decoded key matches the
one row of its operation (O4's partition). -/
theorem decodeAndEncodeAgree : Obligations.DecodeAndEncodeAgree := by
  refine ⟨decode_encode, fun bs i h => ?_⟩
  match bs, h with
  | [k], h =>
    rw [decode] at h
    split at h
    · next hk =>
      obtain rfl := Except.ok.inj h
      obtain ⟨r, hr, hname, hlv⟩ := operationMapsPartitionTheKeys.2 (k.setWidth 3)
      rw [setWidth_setWidth_key (n := 3) hk] at hr
      obtain ⟨hmem, hmask⟩ := row_of_rowsMatching hr
      obtain ⟨hfsk, hval⟩ := opRow_of_mnemonic r hmem hname.symm
      exact ⟨by rw [encode, hlv]; rfl, ⟨r, hmem, hname.symm, hfsk, hval, k, rfl, hmask⟩,
        fun b hb => absurd hb (decodeLv_not_operand _ b)⟩
    · cases h
  | [k, c], h =>
    rw [decode] at h
    split at h
    · next hk =>
      obtain rfl := Except.ok.inj h
      obtain ⟨r, hr, hname, hfs⟩ := operationMapsPartitionTheKeys.1 (k.setWidth 5) c
      rw [setWidth_setWidth_key (n := 5) hk] at hr
      obtain ⟨hmem, hmask⟩ := row_of_rowsMatching hr
      obtain ⟨hfsk, hval⟩ := opRow_of_mnemonic r hmem hname.symm
      exact ⟨by rw [encode, hfs]; rfl, ⟨r, hmem, hname.symm, hfsk, hval, k, rfl, hmask⟩,
        fun b hb => congrArg some (decodeFs_operand hb)⟩
    · cases h
  | [], h => cases h
  | _ :: _ :: _ :: _, h => cases h

/-! The assembler. -/

/-- Flags at bit 9 and above stand over the byte: the word is their sum. -/
theorem toNat_or_byte (a : Nat) (x : StimWord) (hx : x.toNat = 2 ^ 9 * a) (b : Byte) :
    (x ||| b.setWidth 12).toNat = x.toNat + b.toNat := by
  have hb : b.toNat < 2 ^ 9 := lt_trans b.isLt (by decide)
  rw [BitVec.toNat_or, BitVec.toNat_setWidth, Nat.mod_eq_of_lt (lt_trans b.isLt (by decide)), hx,
    Nat.two_pow_add_eq_or_of_lt hb]

/-- Settles O7: each line's word is the word built from its fields. -/
theorem linesSetTheirFields : Obligations.LinesSetTheirFields := by
  refine ⟨rfl, rfl, rfl, rfl, fun b => ⟨toNat_or_byte 1 0x200 rfl b, ?_⟩,
    fun b => ⟨toNat_or_byte 3 0x600 rfl b, ?_⟩, fun w => ?_⟩
  · simp [lineWord, mkStim]
  · simp [lineWord, mkStim]
  · conv_lhs => rw [← mkStim_fields w]
    refine BitVec.eq_of_getLsbD_eq fun i hi => ?_
    rw [withRead, BitVec.getLsbD_or, getLsbD_mkStim _ _ _ _ _ hi, getLsbD_mkStim _ _ _ _ _ hi]
    interval_cases i <;> simp

/-- A row that the assembler takes places its words before those of the rest (R102). -/
theorem assemble_cons {c : Config} {last : Option (List Byte)} {what : Source} {here : List StimWord}
    {rest : List SourceRow} (hwf : SourceRow.wellFormed c ⟨what, false⟩ = true)
    (hwords : sourceWords c last what = some here) :
    assemble c last (⟨what, false⟩ :: rest) = (assemble c (lastPayload last what) rest).map (here ++ ·) := by
  rw [assemble, if_pos hwf]
  simp only [hwords]
  cases assemble c (lastPayload last what) rest <;> rfl

/-- Settles O8: both texts place the same words and leave the same payload for a later `CSUM`. -/
theorem messagePseudoExpands : Obligations.MessagePseudoExpands := by
  intro c last p d rest hp hd
  have hpay : SourceRow.wellFormed c ⟨.pay p, false⟩ = true := by simpa [SourceRow.wellFormed] using hp
  have hbad : SourceRow.wellFormed c ⟨.badCsum d, false⟩ = true := by simpa [SourceRow.wellFormed] using hd
  have hbadMsg : SourceRow.wellFormed c ⟨.badMsg d p, false⟩ = true := by
    simpa [SourceRow.wellFormed] using ⟨hd, hp⟩
  constructor
  · rw [assemble_cons (what := .msg p) hpay rfl, assemble_cons (what := .magic) rfl rfl,
      assemble_cons hpay rfl, assemble_cons (what := .csum) rfl rfl]
    simp [lastPayload, message, messageWith, byteWords, Function.comp_def]
  · rw [assemble_cons hbadMsg rfl, assemble_cons (what := .magic) rfl rfl, assemble_cons hpay rfl,
      assemble_cons hbad rfl]
    simp [lastPayload, messageWith, byteWords, Function.comp_def]

end Sys2Proof.Machine
end

section
/-! One edge and one step (R93, R99, R120, R125, R134, R137, R231): which operations a word selects, that
the two halves do not meet, and where the sequencer goes. -/

namespace Sys2Proof.Machine

variable {w v : StimWord} {s t : State} {f : FsRegs} {m : Memory} {l : LvRegs} {pub rd : Bool}

/-! The pair of operations. -/

/-- The publish strobe is raised by a matching checksum byte alone (R93). -/
theorem publishStrobe_fsInstr (w : StimWord) (s : State) : publishStrobe (fsInstr w s.fs.state) s = true ↔
    swRst w = false ∧ swErr w = false ∧ swValid w = true ∧ s.fs.state = .checksum ∧
      swData w = s.fs.sum := by
  cases hrst : swRst w with
  | true => simp [fsInstr_eq, hrst, publishStrobe]
  | false =>
    cases herr : swErr w with
    | true => simp [fsInstr_terr _ hrst herr, publishStrobe]
    | false =>
      cases hv : swValid w with
      | true => rw [fsInstr_byte _ hrst herr hv]; cases s.fs.state <;> simp [publishStrobe, checksumMatches]
      | false => rw [fsInstr_eq, hrst, herr, hv]; cases s.fs.state <;> simp [publishStrobe]

theorem lvInstr_hasPublish (w : StimWord) (pub : Bool) :
    (lvInstr w pub).hasPublish = (!swRst w && pub) := by
  rw [lvInstr_eq]
  cases swRst w with
  | true => rfl
  | false => cases pub <;> cases swRd w <;> rfl

theorem isChecksumByte_of_publishStrobe {i : Instr} (h : publishStrobe i s = true) : i.isChecksumByte = true := by
  cases i with
  | fsChecksumByte b => rfl
  | _ => cases h

/-- Both halves reset exactly on `rst` (R230). -/
theorem fsInstr_eq_reset_iff (w : StimWord) (st : FsState) : fsInstr w st = .fsReset ↔ swRst w = true := by
  rw [fsInstr_eq]
  cases swRst w with
  | true => simp
  | false =>
    cases swErr w with
    | true => simp
    | false => cases st <;> cases swValid w <;> simp

theorem lvInstr_eq_reset_iff (w : StimWord) (pub : Bool) : lvInstr w pub = .lvReset ↔ swRst w = true := by
  rw [lvInstr_eq]
  cases swRst w with
  | true => simp
  | false => cases pub <;> cases swRd w <;> simp

/-- Settles O5: the LV key's publish bit is the strobe, which only a matching checksum byte raises. -/
theorem edgeSelectsWellFormedPair : Obligations.EdgeSelectsWellFormedPair := by
  intro w s
  have hpub : (edgeOps w s).lv.hasPublish = true ↔ publishStrobe (fsInstr w s.fs.state) s = true := by
    rw [edgeOps, lvInstr_hasPublish, Bool.and_eq_true, and_iff_right_iff_imp]
    intro h
    rw [((publishStrobe_fsInstr w s).1 h).1]; rfl
  refine ⟨?_, hpub.trans (publishStrobe_fsInstr w s)⟩
  simp only [EdgeOps.wellFormed, Bool.and_eq_true, Bool.or_eq_true, Bool.not_eq_true', beq_iff_eq,
    decide_eq_decide]
  refine ⟨⟨⟨fsInstr_isFs _ _, lvInstr_isFs _ _⟩,
    (fsInstr_eq_reset_iff _ _).trans (lvInstr_eq_reset_iff _ _).symm⟩, ?_⟩
  cases h : (edgeOps w s).lv.hasPublish with
  | false => exact .inl rfl
  | true => exact .inr (isChecksumByte_of_publishStrobe (hpub.1 h))

/-- Settles O6: the decoders' tables by field do not ask for what R99 lets vary. -/
theorem dontCareInputsChangeNothing : Obligations.DontCareInputsChangeNothing := by
  intro w v s hrst hctl hvalid hdata
  suffices hops : edgeOps w s = edgeOps v s by rw [edge, edge, hops]
  have hfs : fsInstr w s.fs.state = fsInstr v s.fs.state := by
    rw [fsInstr_eq, fsInstr_eq, ← hrst]
    cases hr : swRst w with
    | true => rfl
    | false =>
      rw [← (hctl hr).1]
      cases he : swErr w with
      | true => rfl
      | false =>
        rw [← hvalid hr he]
        cases hv : swValid w with
        | true => rw [hdata hr he hv]
        | false => cases s.fs.state <;> rfl
  have hlv : ∀ pub, lvInstr w pub = lvInstr v pub := fun pub => by
    rw [lvInstr_eq, lvInstr_eq, ← hrst]
    cases hr : swRst w with
    | true => rfl
    | false => rw [(hctl hr).2]
  rw [edgeOps, edgeOps, hfs, hlv]

/-! The two halves. -/

/-- An LV operation does the same beside any FS registers and slots: it reads none of them (R120). -/
theorem exec_lv_beside {i : Instr} (hi : i.isFs = false) (s : State) (f : FsRegs) (m : Memory) :
    ∃ l, exec i s = .next { s with lv := l } ∧
      exec i { s with fs := f, slots := m } = .next { s with fs := f, slots := m, lv := l } := by
  cases i <;> simp [Instr.isFs] at hi
  case lvReset | lvIdle | lvPublish => exact ⟨_, rfl, rfl⟩
  case lvTryread =>
    cases hf : s.lv.fresh with
    | true => exact ⟨_, exec_tryread_hit hf, exec_tryread_hit hf⟩
    | false => exact ⟨_, exec_tryread_miss hf, exec_tryread_miss hf⟩
  case lvPublishTryread =>
    cases hf : s.lv.fresh with
    | true => exact ⟨_, exec_publishTryread_hit hf, exec_publishTryread_hit hf⟩
    | false => exact ⟨_, exec_publishTryread_miss hf, exec_publishTryread_miss hf⟩

/-- Settles O12: the LV operation reads nothing that the FS operation wrote. -/
theorem edgeIsFsThenLv : Obligations.EdgeIsFsThenLv := by
  intro w s
  have hlv : (edgeOps w s).lv.isFs = false := lvInstr_isFs _ _
  rw [edge, runOps]
  cases hf : exec (edgeOps w s).fs s with
  | next t =>
    obtain ⟨l, hl, ht⟩ := exec_lv_beside hlv s t.fs t.slots
    rw [hl, exec_fs_next (fsInstr_isFs w s.fs.state) hf]
    exact ht.symm
  | fault r => rfl
  | refused r => rfl

/-- Where the store has no byte at the payload position, FS.PAYLOAD_BYTE stops (log entry 7). -/
theorem exec_payloadByte_fault {b : Byte} (ha : slotAddr s.cfg s.lv.wIdx s.fs.pcnt = none) :
    exec (.fsPayloadByte b) s = .fault .slotOutsideStore := by
  simp only [exec, execFsPayloadByte, slotWrite, ha, Option.map_none]

/-- Settles O18: the guard is the address's own condition, and inside it there is a next state. -/
theorem payloadByteOutsideStoreStops : Obligations.PayloadByteOutsideStoreStops := by
  intro s b
  constructor
  · intro hout
    exact exec_payloadByte_fault (if_neg (by omega))
  · intro hfault
    by_contra hin
    have ha := slotAddr_isSome (c := s.cfg) (i := s.lv.wIdx) (k := s.fs.pcnt) (by omega) (by omega)
    rw [exec_payloadByte ha] at hfault
    cases hfault

/-- An FS operation that stores no payload byte leaves the slots. -/
theorem exec_fs_slots {i : Instr} (hi : i.isFs = true) (h : exec i s = .next t) :
    t.slots = s.slots ∨ ∃ b a, i = .fsPayloadByte b ∧ slotAddr s.cfg s.lv.wIdx s.fs.pcnt = some a ∧
      t.slots = Memory.write s.slots a b := by
  cases i <;> simp [Instr.isFs] at hi
  case fsPayloadByte b =>
    cases ha : slotAddr s.cfg s.lv.wIdx s.fs.pcnt with
    | none => rw [exec_payloadByte_fault ha] at h; cases h
    | some a =>
      rw [exec_payloadByte ha] at h
      cases h
      exact .inr ⟨b, a, rfl, rfl, rfl⟩
  case fsSeekByte b =>
    left
    by_cases hb : b = markerOperand s
    · by_cases hk : s.fs.midx = 3
      · rw [exec_seekByte_markerDone hb hk] at h; cases h; rfl
      · rw [exec_seekByte_markerNext hb hk] at h; cases h; rfl
    · rw [exec_seekByte_mismatch hb] at h; cases h; rfl
  case fsChecksumByte b =>
    rw [exec_checksumByte] at h; cases h
    exact .inl rfl
  all_goals cases h; exact .inl rfl

/-- Settles O13: the frames of the two halves, and the one store at `(w_idx, pcnt)`. -/
theorem halvesWriteDisjointRegisters : Obligations.HalvesWriteDisjointRegisters := by
  refine fun i s t h =>
    ⟨fun hi => ⟨fsLeaves_of_exec hi h, fun j k hne => ?_⟩, fun hi => lvLeaves_of_exec hi h⟩
  have hcfg := (fsLeaves_of_exec hi h).cfg
  obtain hsame | ⟨b, a, rfl, ha, hstore⟩ := exec_fs_slots hi h
  · exact absurd (slotRead_congr hcfg hsame j k) hne
  · refine ⟨⟨b, rfl⟩, ?_⟩
    by_contra hother
    refine hne (slotRead_store_other ha hcfg hstore ?_)
    rwa [ne_eq, Prod.mk.injEq]

/-- Settles O60: a hit rotates as the hit and the exchange after it do; in the other order the new frame
would not be fresh at the end. -/
theorem sameCycleReadComesFirst : Obligations.SameCycleReadComesFirst := by
  refine ⟨fun s => ?_, fun s h => ?_⟩
  · cases hf : s.lv.fresh with
    | true => rw [exec_publishTryread_hit hf, tryRead, if_pos hf]; rfl
    | false => rw [exec_publishTryread_miss hf, tryRead, if_neg (Bool.eq_false_iff.1 hf)]; rfl
  · obtain ⟨t, ht, -, -, hfresh, -⟩ := publishTryReadResult.2 s
    rw [ht] at h
    cases h
    cases hfresh

/-! Steps. -/

theorem decode_fsImage (w : StimWord) (st : FsState) : decode (fsImage w st) = .ok (fsInstr w st) := by
  have hk : ∀ k : FsKey, (k.setWidth 8).toNat < 32 ∧ (k.setWidth 8).setWidth 5 = k := by decide
  rw [fsImage, decode, if_pos (hk _).1, (hk _).2, fsInstr]

theorem decode_lvImage (w : StimWord) (pub : Bool) : decode (lvImage w pub) = .ok (lvInstr w pub) := by
  have hk : ∀ k : LvKey, (k.setWidth 8).toNat < 8 ∧ (k.setWidth 8).setWidth 3 = k := by decide
  rw [lvImage, decode, if_pos (hk _).1, (hk _).2, lvInstr]

/-- Settles O11: a step is the edge on the sampled word, and the images are those of the edge's keys. -/
theorem stepRunsDecodedOperations : Obligations.StepRunsDecodedOperations := by
  intro s pre w hsample
  obtain ⟨hstep, hfs, hlv, hpub⟩ : step s = edge w pre ∧ pre.fs = s.fs ∧ pre.lv = s.lv ∧
      ∀ i, publishStrobe i pre = publishStrobe i s := by
    obtain ⟨hin, hpre⟩ | ⟨hin, rfl, hpre⟩ := hsample <;> rw [hpre]
    · exact ⟨by simp only [step, nextEdge, sampleInput, hin], rfl, rfl, fun i => by cases i <;> rfl⟩
    · exact ⟨by simp only [step, nextEdge, sampleInput, hin], rfl, rfl, fun i => by cases i <;> rfl⟩
  refine ⟨_, _, decode_fsImage w s.fs.state, decode_lvImage w _, fun sf sl hf hl => ?_, fun r hf => ?_⟩
  · rw [hstep]
    exact edge_next_iff.2 ⟨sf, sl, by rw [edgeOps, hfs]; exact hf, by rw [edgeOps, hfs, hpub]; exact hl, rfl⟩
  · rw [hstep, edge, runOps]
    have hf' : exec (edgeOps w pre).fs pre = .fault r := by rw [edgeOps, hfs]; exact hf
    rw [hf']

/-! Reset. -/

/-- Settles O27: the reset edge's equation is the reset state over the old slots and stimulus. -/
theorem resetEdgeFromAnyState : Obligations.ResetEdgeFromAnyState :=
  fun _ s hrst => ⟨_, edge_reset s hrst, rfl, rfl, rfl, rfl, rfl, rfl, rfl⟩

/-- Settles O28: the reset state is a fixed point of the reset edge; it seeks, and its cell is not fresh. -/
theorem resetHeldAndReleased : Obligations.ResetHeldAndReleased := by
  intro w s t hrst h
  rw [edge_reset s hrst] at h
  obtain rfl := Host.Outcome.next.inj h
  refine ⟨fun ws hws => ?_, fun v hq hv => ?_, fun v hr hrd => ?_⟩
  · induction ws with
    | nil => rfl
    | cons v ws ih =>
      obtain ⟨hv, hws⟩ := List.forall_mem_cons.1 hws
      rw [feed_cons (edge_reset _ hv)]
      exact ih hws
  · obtain ⟨hr, he⟩ := quiet_iff.1 hq
    exact fsInstr_byte .seek hr he hv
  · obtain ⟨u, hu⟩ := edge_exists v { s with fs := FsRegs.reset, lv := LvRegs.reset } nofun
    exact ⟨u, hu, (rdDone_edge hr hu).trans hrd, (rdHit_edge hr hu).trans (Bool.and_false _)⟩

/-! The sequencer. -/

/-- Where the seeking FS is after a byte. -/
def seekOutcome : Option MarkerIdx → FsState × Nat
  | some k => (.seek, k.toNat)
  | none => (.payload, 0)

theorem exec_seekByte_outcome {s : State} (hs : s.fs.state = .seek) (b : Byte) :
    ∃ t, exec (.fsSeekByte b) s = .next t ∧
      (t.fs.state, t.fs.midx.toNat) = seekOutcome (seekNext s.cfg.magic s.fs.midx b) := by
  by_cases hb : b = magicAt s.cfg.magic s.fs.midx
  · by_cases hk : s.fs.midx = 3
    · exact ⟨_, exec_seekByte_markerDone hb hk, by rw [seekNext, if_pos hb, if_pos hk]; rfl⟩
    · refine ⟨_, exec_seekByte_markerNext hb hk, ?_⟩
      rw [seekNext, if_pos hb, if_neg hk, seekOutcome, ← hs]
      rfl
  · refine ⟨_, exec_seekByte_mismatch hb, ?_⟩
    rw [seekNext, if_neg hb, seekOutcome, ← hs]
    rfl

theorem seekNext_foreign {k : MarkerIdx} {b : Byte} (hb : b ∉ Magic.sglp.bytes) :
    seekNext Magic.sglp k b = some 0 := by
  simp only [Magic.bytes, List.mem_cons, List.not_mem_nil, or_false, not_or] at hb
  obtain ⟨h0, h1, h2, h3⟩ := hb
  have hk : b ≠ magicAt Magic.sglp k := by
    unfold magicAt
    split_ifs <;> assumption
  rw [seekNext, if_neg hk, if_neg h0]

/-- Settles O16: on the marker's own four bytes the table is the transition function entry by entry; every
other byte drops the match. -/
theorem seekTableForDefaultMarker : Obligations.SeekTableForDefaultMarker := by
  intro s b hmagic hs
  obtain ⟨t, ht, hres⟩ := exec_seekByte_outcome hs b
  refine ⟨t, ht, ?_⟩
  rw [hres, hmagic]
  generalize s.fs.midx = k
  by_cases hb : b ∈ Magic.sglp.bytes
  · simp only [Magic.bytes, Magic.sglp, List.mem_cons, List.not_mem_nil, or_false] at hb
    obtain rfl | rfl | rfl | rfl := hb
    all_goals revert k; decide
  · rw [seekNext_foreign hb]
    have hn : b.toNat ∉ Magic.sglp.bytes.map BitVec.toNat :=
      mt (List.mem_map_of_injective fun _ _ => BitVec.eq_of_toNat_eq).1 hb
    split
    case h_8 => rfl
    all_goals next _ hk => simp [hk, Magic.bytes, Magic.sglp] at hn

/-- Settles O35: PCNT_W is the ceiling of the logarithm, so it is enough and the least above one. -/
theorem payloadCounterFitsItsWidth : Obligations.PayloadCounterFitsItsWidth := by
  intro s hinv
  refine ⟨?_, fun n hn hlt => ?_⟩
  · calc s.fs.pcnt < s.cfg.plen := hinv.pcntBelowPlen
      _ ≤ 2 ^ Nat.clog 2 s.cfg.plen := Nat.le_pow_clog (by decide) _
      _ ≤ 2 ^ s.cfg.pcntW := Nat.pow_le_pow_right (by decide) (le_max_right _ _)
  · have hclog : n < Nat.clog 2 s.cfg.plen := by
      rw [Config.pcntW] at hlt
      omega
    exact (Nat.lt_clog_iff_pow_lt (by decide)).1 hclog

/-- Settles O36: each row is the inversion of the FS's half for its state and inputs. -/
theorem sequencerFollowsItsTable : Obligations.SequencerFollowsItsTable := by
  intro w s t h
  obtain ⟨hrst, rfl⟩ | ⟨hrst, f, m, pub, l, hf, -, rfl⟩ := edge_next h
  · simp [hrst, quiet, FsRegs.reset]
  have herr : quiet w = true → swErr w = false := fun hq => (quiet_iff.1 hq).2
  refine ⟨fun hr => absurd hr (by simp [hrst]), fun _ => hf.error_eq, fun hq hv hs => ?_, fun hq hv hs => ?_,
    fun hq hv hs => ?_, fun hq hv hs => ?_, fun _ => hf.illegal_eq⟩
  · obtain ⟨rfl, -⟩ := hf.idle_eq (herr hq) hv hs
    exact ⟨rfl, rfl, rfl⟩
  · obtain ⟨-, -, hmatch⟩ := hf.seek_eq (herr hq) hv hs
    have hlast : s.fs.midx.toNat = 3 ↔ s.fs.midx = 3 := BitVec.toNat_inj (y := 3#2)
    refine ⟨fun hb hk => ?_, fun hb hk => ?_, fun hb h0 => ?_, fun hb h0 => ?_⟩
    · have hk3 : s.fs.midx ≠ 3 := fun he => by rw [hlast.2 he] at hk; omega
      rw [seekNext, if_pos hb, if_neg hk3] at hmatch
      exact ⟨hmatch.1, by rw [hmatch.2]; exact midx_succ_toNat hk3⟩
    · rwa [seekNext, if_pos hb, if_pos (hlast.1 hk)] at hmatch
    · rwa [seekNext, if_neg hb, if_pos h0] at hmatch
    · rwa [seekNext, if_neg hb, if_neg h0] at hmatch
  · obtain ⟨-, -, -, hst, hp, hin⟩ := hf.payload_eq (herr hq) hv hs
    refine ⟨fun hlt => ?_, fun hk => ?_⟩
    · have hk : s.fs.pcnt + 1 ≠ s.cfg.plen := by omega
      exact ⟨hst.trans (if_neg hk), hp.trans (if_neg hk)⟩
    · exact hst.trans (if_pos (by omega))
  · obtain ⟨hst, hm, -, hev⟩ := hf.checksum_eq (herr hq) hv hs
    exact ⟨hst, hm, hev⟩

/-- Settles O39: in PAYLOAD the count decides, in CHECKSUM nothing does. -/
theorem markerBytesInsideMessageArePlain : Obligations.MarkerBytesInsideMessageArePlain := by
  intro w v s t u hs hw hv hwv hvv ht hu
  obtain ⟨hrw, hew⟩ := quiet_iff.1 hw
  obtain ⟨hrv, hev⟩ := quiet_iff.1 hv
  obtain ⟨f, m, pub, l, hf, -, rfl⟩ := edge_next_running hrw ht
  obtain ⟨f', m', pub', l', hf', -, rfl⟩ := edge_next_running hrv hu
  obtain hs | hs := hs
  · obtain ⟨-, -, hm, hst, hp, -⟩ := hf.payload_eq hew hwv hs
    obtain ⟨-, -, hm', hst', hp', -⟩ := hf'.payload_eq hev hvv hs
    exact ⟨hst.trans hst'.symm, hm.trans hm'.symm, hp.trans hp'.symm⟩
  · obtain ⟨hst, hm, hp, -⟩ := hf.checksum_eq hew hwv hs
    obtain ⟨hst', hm', hp', -⟩ := hf'.checksum_eq hev hvv hs
    exact ⟨hst.trans hst'.symm, hm.trans hm'.symm, hp.trans hp'.symm⟩

/-! No frame before a whole message (R234). -/

theorem position_after (hf : FsCase w s f m pub) :
    position { s with fs := f, slots := m, lv := l } ≤ position s + (swValid w).toNat := by
  cases hf with
  | terr | ill | accept | reject => exact Nat.zero_le _
  | idle he hv hs => exact Nat.le_add_right _ _
  | markerDone he hv hs hb hk => simp [position, hv, hs, hk]
  | markerNext he hv hs hb hk => simp only [position, hv, hs, midx_succ_toNat hk]; rfl
  | restart he hv hs => simp [position, hv, hs]
  | discard he hv hs => simp [position, hs]
  | payload a he hv hs => simp [position, hv, hs]; omega
  | payloadLast a he hv hs ha hk => simp [position, hv, hs]; omega

/-- A publish is a byte taken in CHECKSUM (R93). -/
theorem publishedOn_cause (h : edge w s = .next t) (hpub : publishedOn t = true) :
    swValid w = true ∧ s.fs.state = .checksum := by
  obtain ⟨f, m, pub, l, hf, -, rfl⟩ := edge_next_running (publishedOn_edge h hpub).1 h
  rw [publishedOn_after hf] at hpub
  subst hpub
  obtain ⟨-, hv, hs, -⟩ := hf.of_publish
  exact ⟨hv, hs⟩

/-- With `n` bytes presented since reset: the position is at most `n`, and the cell is empty. -/
def StillEmpty (n : Nat) (s : State) : Prop :=
  position s ≤ n ∧ s.lv.hasValue = false ∧ s.lv.fresh = false ∧ s.lv.rSeen = false

/-- Short of PLEN + 5 bytes an edge publishes nothing and leaves the cell empty. -/
theorem StillEmpty.edge {n : Nat} (hs : StillEmpty n s) (h : edge w s = .next t)
    (hn : n + (swValid w).toNat < s.cfg.plen + 5) :
    StillEmpty (n + (swValid w).toNat) t ∧ publishedOn t = false := by
  obtain ⟨hpos, hhas, hfresh, hseen⟩ := hs
  have hpub : publishedOn t = false := Bool.eq_false_iff.2 fun hp => by
    obtain ⟨hv, hst⟩ := publishedOn_cause h hp
    have hdue : position s = 4 + s.cfg.plen := by rw [position, hst]
    rw [hv, Bool.toNat_true] at hn
    omega
  refine ⟨?_, hpub⟩
  cases hrst : swRst w with
  | true =>
    rw [edge_reset s hrst] at h
    obtain rfl := Host.Outcome.next.inj h
    exact ⟨Nat.zero_le _, rfl, rfl, rfl⟩
  | false =>
    have hstep := cellStep_edge hrst h
    have hhit : t.lv.rdHit = false := by rw [rdHit_edge hrst h, hfresh, Bool.and_false]
    refine ⟨?_, by rw [hstep.hasValue, hpub, hhas]; rfl, by rw [hstep.fresh, hpub, hfresh]; rfl,
      by rw [hstep.rSeen, hhit, hseen]; rfl⟩
    obtain ⟨f, m, pub, l, hf, -, rfl⟩ := edge_next_running hrst h
    exact (position_after hf).trans (Nat.add_le_add_right hpos _)

theorem StillEmpty.feed {n : Nat} {ws : List StimWord} (hs : StillEmpty n s) (h : feed ws s = .next t)
    (hn : n + (ws.filter swValid).length < s.cfg.plen + 5) :
    StillEmpty (n + (ws.filter swValid).length) t ∧ ∀ e ∈ eventLog ws s, e.1 ≠ .frameOk := by
  induction ws generalizing s n with
  | nil => cases h; exact ⟨hs, nofun⟩
  | cons w ws ih =>
    obtain ⟨x, hx, hws⟩ := feed_cons_next h
    rw [← toNat_add_length_filter, ← Nat.add_assoc] at hn ⊢
    obtain ⟨hsx, hpub⟩ := hs.edge hx (by omega)
    obtain ⟨ht, hlog⟩ := ih hsx hws (by rw [edge_cfg hx]; exact hn)
    refine ⟨ht, fun e he => ?_⟩
    rw [eventLog_cons hx, List.mem_append] at he
    obtain he | he := he
    · unfold eventOf at he
      split at he <;> simp_all [publishedOn]
    · exact hlog e he

/-- Settles O50: a publish needs the position PLEN + 4 behind it and one byte more. -/
theorem noFrameBeforeAWholeMessage : Obligations.NoFrameBeforeAWholeMessage := by
  intro c ws t h hn
  have hreset : StillEmpty 0 (State.resetOf c) := ⟨le_refl 0, rfl, rfl, rfl⟩
  obtain ⟨⟨-, hhas, -, hseen⟩, hlog⟩ := hreset.feed h (by rwa [Nat.zero_add])
  exact ⟨hhas, (rdFrame_of_unseen hseen).trans (by rw [feed_cfg h]; rfl), hlog⟩

end Sys2Proof.Machine
end
